-- ==== Sys2Proof/Word.lean ====
section
/-! DEFINITION. The value types of the block (spec/10_state.md R23, spec/00_scope.md R11): bytes, the 16-bit host
command word, line levels, the four modes, the 6-byte frame, the configuration and version records, the serial-port
settings. Bit 7 of a byte is its most significant bit (R11; general knowledge G1 of spec/93, log entry 16). -/

namespace Sys2Proof

/-- A byte of a frame (R11). -/
abbrev Byte := BitVec 8

/-- The 16-bit host command word CMD (R24, R71). -/
abbrev Word := BitVec 16

/-- The level of a GPIO line: LOW (0) or HIGH (1) (R14). -/
inductive Level where
  | low
  | high
  deriving DecidableEq, Repr, Inhabited

/-- The level a bit of a mode code stands for: 1 is HIGH (R72; general knowledge G2, log entry 16). -/
def Level.ofBool : Bool → Level
  | true => .high
  | false => .low

/-- The four operating modes (R23, R72). -/
inductive Mode where
  | normal
  | wakeup
  | powerSaving
  | program
  deriving DecidableEq, Repr, Inhabited

/-- The serial parity mode (R23). -/
inductive Parity where
  | none
  | odd
  | even
  deriving DecidableEq, Repr, Inhabited

/-- Flow control: the block only ever asks for NONE (R9). -/
inductive Flow where
  | none
  deriving DecidableEq, Repr, Inhabited

/-- The direction the block has configured for a pin (R27). -/
inductive Dir where
  | unconfigured
  | input
  | output
  deriving DecidableEq, Repr, Inhabited

/-- `Frame6`: six bytes, byte 0 first on the wire (R23, R51). -/
structure Frame6 where
  b0 : Byte
  b1 : Byte
  b2 : Byte
  b3 : Byte
  b4 : Byte
  b5 : Byte
  deriving DecidableEq, Repr, Inhabited

/-- The bytes of a frame in wire order (R51). -/
def Frame6.bytes (f : Frame6) : List Byte :=
  [f.b0, f.b1, f.b2, f.b3, f.b4, f.b5]

/-- `ConfigurationRegister` (R23): the structured form, in the spec's field order. The numeric fields are natural
numbers, so that a non-canonical value can be written (R23, R87). -/
structure ConfigurationRegister where
  persistent : Bool
  address    : BitVec 16
  parity     : Parity
  baud       : Nat
  airRate    : Nat
  channel    : Byte
  fixed      : Bool
  pullup     : Bool
  wakeup     : Nat
  fec        : Bool
  power      : Nat
  deriving DecidableEq, Repr, Inhabited

/-- `VersionInfo` (R23): three bytes read verbatim from the version response. -/
structure VersionInfo where
  model    : Byte
  version  : Byte
  features : Byte
  deriving DecidableEq, Repr, Inhabited

/-- `SerialCfg` (R23): the settings a port is opened with. -/
structure SerialCfg where
  baud     : Nat
  dataBits : Nat
  parity   : Parity
  stopBits : Nat
  flow     : Flow
  deriving DecidableEq, Repr, Inhabited

/-- One answer of the environment to a primitive (R14, R15). A primitive looks only at the parts that concern it:
`fails` is the choice between success and IoError (every primitive but `Delay`), `level` the level a `GpioRead`
returns, `rx` what a `SerialRead` returns (`none` is TIMEOUT). -/
structure Answer where
  fails : Bool
  level : Level
  rx    : Option Frame6
  deriving DecidableEq, Repr, Inhabited

end Sys2Proof
end

