-- ==== Sys2Proof/Config.lean ====
section
/-! DEFINITION. What is fixed for one block (spec/00_scope.md R8 to R10): the instance parameters and the numeric
literals, each a named constant so that an audit can correct it (spec/93 I1); and the FREE VALUES, constants without a
body, about which nothing can be proved: what the spec leaves unspecified (R24, R26, R28, R102, R103) and the
environment's answers beyond those listed in State (R15). The code tables of the configuration register stand in
Machine/Operands.lean, where a repair may mend them. -/

namespace Sys2Proof

/-- `POWER_TABLE`: which of the two power tables the module has (R8, R86; OPEN in D8). -/
inductive PowerTable where
  | high
  | low
  deriving DecidableEq, Repr, Inhabited

/-- `MODE_WRITE_ORDER` (R8, R102; OPEN in D18). -/
inductive ModeWriteOrder where
  | atomic
  | aThenB
  | bThenA
  deriving DecidableEq, Repr, Inhabited

/-- The parameters of one block (R8). They are no state: no operation changes any of them. `exec` takes only the
state, so State carries them in one field that no step writes (log entry 4). -/
structure Params where
  pinModeA             : Nat
  pinModeB             : Nat
  pinBusy              : Nat
  pinTx                : Nat
  pinRx                : Nat
  port                 : Nat
  opBaud               : Nat
  powerTable           : PowerTable
  readySamples         : Nat
  readyTimeoutMs       : Option Nat
  modeWriteOrder       : ModeWriteOrder
  restoreOnReadTimeout : Bool
  deriving DecidableEq, Repr

namespace Config

/-- `PROGRAM_BAUD` (R8). -/
def programBaud : Nat := 9600

/-- `POLL_INTERVAL_MS` (R8, R212). -/
def pollIntervalMs : Nat := 10

/-- `SETTLE_MS` (R8, R212). -/
def settleMs : Nat := 20

/-- `READ_TIMEOUT_MS` (R8, R212). -/
def readTimeoutMs : Nat := 20

/-- `HDR_PERSIST` (R10). -/
def hdrPersist : Byte := 0xC0#8

/-- `HDR_VOLATILE` (R10). -/
def hdrVolatile : Byte := 0xC2#8

/-- `HDR_VERSION` (R10). -/
def hdrVersion : Byte := 0xC3#8

/-- `CMD_READ_PARAMS` (R10), sent three times (R73). -/
def cmdReadParams : Byte := 0xC1#8

/-- `CMD_READ_VERSION` (R10), sent three times (R73). -/
def cmdReadVersion : Byte := 0xC3#8

/-- `CMD_RESET` (R10), sent three times (R73). -/
def cmdReset : Byte := 0xC4#8

/-- The block that `State.reset` is: the parameter values that spec/95_test_vectors.md uses unless a vector says
otherwise, and pin and port numbers of the model's own (DESIGN CHOICE, log entry 4). `State.resetWith` takes any
other block. -/
def params : Params where
  pinModeA := 1
  pinModeB := 2
  pinBusy := 3
  pinTx := 4
  pinRx := 5
  port := 1
  opBaud := 57600
  powerTable := .high
  readySamples := 1
  readyTimeoutMs := none
  modeWriteOrder := .atomic
  restoreOnReadTimeout := true

/-! Free values. Each is one value the spec leaves unspecified; none has a body. -/

/-- What CMD holds at reset (R24, R31: unspecified; log entry 2). -/
opaque resetCmd : Word
/-- What FRAME_IN holds at reset (R24, R31: unspecified; log entry 2). -/
opaque resetFrameIn : Frame6
/-- What CFG_IN holds at reset (R24, R31: unspecified; log entry 2). -/
opaque resetCfgIn : ConfigurationRegister
/-- What FRAME_OUT holds at reset (R24, R31: unspecified; log entry 2). -/
opaque resetFrameOut : Frame6
/-- What CFG_OUT holds at reset (R24, R31: unspecified; log entry 2). -/
opaque resetCfgOut : ConfigurationRegister
/-- What VER_OUT holds at reset (R24, R31: unspecified; log entry 2). -/
opaque resetVerOut : VersionInfo
/-- What RESULT holds at reset (R24, R31: unspecified; log entry 2). -/
opaque resetResult : Byte
/-- What ERR_INFO holds at reset (R24, R31: unspecified; log entry 2). -/
opaque resetErrInfo : Byte
/-- The level of LINE_A at reset (R26, R31, R232: unspecified; log entry 2). -/
opaque resetLineA : Level
/-- The level of LINE_B at reset (R26, R31, R232: unspecified; log entry 2). -/
opaque resetLineB : Level

/-- The level a line has after a write to it failed (R102, I10: any value), for the n-th draw (log entry 7). -/
opaque freeLevel : Nat → Level
/-- SERIAL_OPEN after a failed close or open (R103, I4: any value), for the n-th draw (log entry 7). -/
opaque freeSerialOpen : Nat → Bool
/-- SERIAL_CFG after a failed close or open (R103, I4: any value, or none), for the n-th draw (log entry 7). -/
opaque freeSerialCfg : Nat → Option SerialCfg
/-- The environment's answer number n, drawn when an operation in progress needs an answer and State lists none
(R15, I11: any value; log entry 6). -/
opaque oracle : Nat → Answer

end Config

end Sys2Proof
end

