-- ==== Sys2Proof/Syntax.lean ====
section
/-! DEFINITION. The instructions: one constructor for each row of spec/opcode_table.json. Ten rows are the host
operations (format HOSTCMD16, R70, R71). Four are the codes on the mode-select lines (format MODE2, R72). Eight are the
frames on the serial wire (formats WIRE3 and WIRE6, R73 to R76), which the block sends or receives inside its
sequences. `FetchWord` is an instruction's encoded form, with the place it stands in: the CMD register, the two lines,
or the wire in one of its two directions (R74 and R75 give the same six bytes in the two directions). -/

namespace Sys2Proof

/-- The raw fields of bytes 1 to 5 of the configuration register (R78). -/
structure CfgFields where
  address : BitVec 16
  parity  : BitVec 2
  baud    : BitVec 3
  air     : BitVec 3
  channel : Byte
  fixed   : Bool
  pullup  : Bool
  wakeup  : BitVec 3
  fec     : Bool
  power   : BitVec 2
  deriving DecidableEq, Repr, Inhabited

/-- Bytes 1 to 5 of a version response (R76). Nothing reads bytes 4 and 5. -/
structure VerFields where
  model    : Byte
  version  : Byte
  features : Byte
  byte4    : Byte
  byte5    : Byte
  deriving DecidableEq, Repr, Inhabited

/-- One constructor per row of spec/opcode_table.json. -/
inductive Instr where
  /-- SET_MODE (R101). -/
  | setMode (m : Mode)
  /-- WAIT_READY (R104). -/
  | waitReady
  /-- DECODE_CFG (R121). -/
  | decodeCfg
  /-- ENCODE_CFG (R130). -/
  | encodeCfg
  /-- DECODE_VER (R140). -/
  | decodeVer
  /-- READ_CFG (R160). -/
  | readCfg
  /-- WRITE_CFG (R163). -/
  | writeCfg
  /-- READ_VER (R164). -/
  | readVer
  /-- RESET_MODULE (R165). -/
  | resetModule
  /-- INITIALIZE (R171). -/
  | initBlock
  /-- MODE_Normal: code 00 on the lines (R72). -/
  | modeNormal
  /-- MODE_Wakeup: code 01 on the lines (R72). -/
  | modeWakeup
  /-- MODE_PowerSaving: code 10 on the lines (R72). -/
  | modePowerSaving
  /-- MODE_Program: code 11 on the lines (R72). -/
  | modeProgram
  /-- WIRE_READ_PARAMS: C1 C1 C1, sent (R73). -/
  | wireReadParams
  /-- WIRE_READ_VERSION: C3 C3 C3, sent (R73). -/
  | wireReadVersion
  /-- WIRE_RESET: C4 C4 C4, sent (R73). -/
  | wireReset
  /-- WIRE_WRITE_PERSIST: a write frame with header C0, sent (R74). -/
  | wireWritePersist (c : CfgFields)
  /-- WIRE_WRITE_VOLATILE: a write frame with header C2, sent (R74). -/
  | wireWriteVolatile (c : CfgFields)
  /-- WIRE_PARAMS_RESPONSE_PERSIST: a parameters response with header C0, received (R75). -/
  | wireParamsResponsePersist (c : CfgFields)
  /-- WIRE_PARAMS_RESPONSE_VOLATILE: a parameters response with header C2, received (R75). -/
  | wireParamsResponseVolatile (c : CfgFields)
  /-- WIRE_VERSION_RESPONSE: a version response, received (R76). -/
  | wireVersionResponse (v : VerFields)
  deriving DecidableEq, Repr

/-- An encoded instruction, where it stands. -/
inductive FetchWord where
  /-- A word in CMD (R71). -/
  | cmd (w : Word)
  /-- A code for the two mode-select lines (R72). -/
  | lines (code : BitVec 2)
  /-- Bytes to send on the wire (R73, R74). -/
  | tx (bytes : List Byte)
  /-- A response that arrives on the wire (R75, R76). -/
  | rx (f : Frame6)
  deriving DecidableEq, Repr

end Sys2Proof
end

