-- ==== Sys2Proof/WellFormed.lean ====
section
/-! DEFINITION. Which instructions the block itself can issue. Every operand's width is in its type; what is left to
check is that a write frame holds canonical codes only: "encoding must only ever emit the canonical values" (R131), so
a frame the block sends never holds parity 0b11 or air rate 0b110 or 0b111. A received frame may hold any raw code
(R90, R123), and every other instruction has no operand or a total one (R72: all four mode codes are legal). No step
checks this: decoding and `exec` take every instruction (R131: "a model must not add a check that the block lacks"). -/

namespace Sys2Proof

/-- The raw codes that encode emits (R90, R131): parity not 0b11, air rate not 0b110 or 0b111. -/
def CfgFields.canonical (c : CfgFields) : Bool :=
  decide (c.parity ≠ 0b11#2) && decide (c.air ≠ 0b110#3) && decide (c.air ≠ 0b111#3)

def Instr.wellFormed : Instr → Bool
  | .setMode _ => true
  | .waitReady => true
  | .decodeCfg => true
  | .encodeCfg => true
  | .decodeVer => true
  | .readCfg => true
  | .writeCfg => true
  | .readVer => true
  | .resetModule => true
  | .initBlock => true
  | .modeNormal => true
  | .modeWakeup => true
  | .modePowerSaving => true
  | .modeProgram => true
  | .wireReadParams => true
  | .wireReadVersion => true
  | .wireReset => true
  | .wireWritePersist c => c.canonical
  | .wireWriteVolatile c => c.canonical
  | .wireParamsResponsePersist _ => true
  | .wireParamsResponseVolatile _ => true
  | .wireVersionResponse _ => true

end Sys2Proof
end

