-- ==== Sys2Proof/Decode.lean ====
section
/-! DEFINITION. Decoding and encoding (spec/30_encoding.md): the host command word HOSTCMD16 (R70, R71, R89), the mode
code MODE2 (R72), the wire frames WIRE3 and WIRE6 (R73 to R76), and the raw fields of the configuration register (R78,
R79, R52). Decoding is total: a word that is no instruction is rejected with its reason. -/

namespace Sys2Proof

/-- Why a word is no instruction. -/
inductive Reject where
  /-- A CMD whose opcode is not in R70 (R89 (a)). -/
  | unknownOpcode (op : Byte)
  /-- A CMD whose reserved bits 15:10 are not 0 (R89 (b)). -/
  | reservedBits
  /-- A CMD other than SET_MODE whose mode field is not 0 (R89 (c)). -/
  | modeOnOtherOp
  /-- A response whose header is none of C0, C2 and C3 (R80, R122, R140). -/
  | unrecognizedHeader (h : Byte)
  /-- Bytes to send that are none of the frames of R73 and R74. -/
  | notAFrame
  deriving DecidableEq, Repr

/-- The mode of a 2-bit code (R72). -/
def Mode.ofCode (c : BitVec 2) : Mode :=
  if c = 0b00#2 then .normal
  else if c = 0b01#2 then .wakeup
  else if c = 0b10#2 then .powerSaving
  else .program

/-- The 2-bit code of a mode (R23, R72). -/
def Mode.code : Mode → BitVec 2
  | .normal => 0b00#2
  | .wakeup => 0b01#2
  | .powerSaving => 0b10#2
  | .program => 0b11#2

/-- The level a mode puts on PIN_MODE_A: bit 1 of its code (R72). -/
def Mode.levelA (m : Mode) : Level := Level.ofBool (m.code.getLsbD 1)

/-- The level a mode puts on PIN_MODE_B: bit 0 of its code (R72). -/
def Mode.levelB (m : Mode) : Level := Level.ofBool (m.code.getLsbD 0)

/-- The raw fields of a frame's bytes 1 to 5 (R52, R78, R79, R84). -/
def CfgFields.ofFrame (f : Frame6) : CfgFields where
  address := f.b1 ++ f.b2
  parity := f.b3.extractLsb' 6 2
  baud := f.b3.extractLsb' 3 3
  air := f.b3.extractLsb' 0 3
  channel := f.b4
  fixed := f.b5.getLsbD 7
  pullup := f.b5.getLsbD 6
  wakeup := f.b5.extractLsb' 3 3
  fec := f.b5.getLsbD 2
  power := f.b5.extractLsb' 0 2

/-- The frame with the given header and raw fields (R78, R130). -/
def CfgFields.toFrame (h : Byte) (c : CfgFields) : Frame6 where
  b0 := h
  b1 := c.address.extractLsb' 8 8
  b2 := c.address.extractLsb' 0 8
  b3 := c.parity ++ c.baud ++ c.air
  b4 := c.channel
  b5 := BitVec.ofBool c.fixed ++ BitVec.ofBool c.pullup ++ c.wakeup ++ BitVec.ofBool c.fec ++ c.power

/-- The fields of a version response (R76). -/
def VerFields.ofFrame (f : Frame6) : VerFields where
  model := f.b1
  version := f.b2
  features := f.b3
  byte4 := f.b4
  byte5 := f.b5

/-- The version response with the given fields (R76). -/
def VerFields.toFrame (v : VerFields) : Frame6 where
  b0 := Config.hdrVersion
  b1 := v.model
  b2 := v.version
  b3 := v.features
  b4 := v.byte4
  b5 := v.byte5

/-- The host operation of an opcode that takes no mode (R70). -/
def decodeOp (op : Byte) : Except Reject Instr :=
  if op = 0x02#8 then .ok .waitReady
  else if op = 0x03#8 then .ok .decodeCfg
  else if op = 0x04#8 then .ok .encodeCfg
  else if op = 0x05#8 then .ok .decodeVer
  else if op = 0x06#8 then .ok .readCfg
  else if op = 0x07#8 then .ok .writeCfg
  else if op = 0x08#8 then .ok .readVer
  else if op = 0x09#8 then .ok .resetModule
  else if op = 0x0A#8 then .ok .initBlock
  else .error (.unknownOpcode op)

/-- The host operation of a CMD word, or why it is illegal (R70, R71, R89). -/
def decodeCmd (w : Word) : Except Reject Instr :=
  let op : Byte := w.extractLsb' 0 8
  let mode : BitVec 2 := w.extractLsb' 8 2
  let rsv : BitVec 6 := w.extractLsb' 10 6
  if rsv = 0#6 then
    if op = 0x01#8 then .ok (.setMode (Mode.ofCode mode))
    else if mode = 0#2 then decodeOp op
    else .error .modeOnOtherOp
  else .error .reservedBits

/-- The instruction of a code on the mode-select lines: all four are legal (R72). -/
def decodeLines (c : BitVec 2) : Instr :=
  match Mode.ofCode c with
  | .normal => .modeNormal
  | .wakeup => .modeWakeup
  | .powerSaving => .modePowerSaving
  | .program => .modeProgram

/-- The frame that bytes to be sent are: three equal command bytes (R73) or a write frame (R74). -/
def decodeTx : List Byte → Except Reject Instr
  | [x, y, z] =>
    if x = y ∧ y = z then
      if x = Config.cmdReadParams then .ok .wireReadParams
      else if x = Config.cmdReadVersion then .ok .wireReadVersion
      else if x = Config.cmdReset then .ok .wireReset
      else .error .notAFrame
    else .error .notAFrame
  | [h, x1, x2, x3, x4, x5] =>
    let f : Frame6 := ⟨h, x1, x2, x3, x4, x5⟩
    if h = Config.hdrPersist then .ok (.wireWritePersist (CfgFields.ofFrame f))
    else if h = Config.hdrVolatile then .ok (.wireWriteVolatile (CfgFields.ofFrame f))
    else .error .notAFrame
  | _ => .error .notAFrame

/-- The response that six received bytes are (R75, R76), by the header alone: no raw code of bytes 1 to 5 is illegal
(R90). -/
def decodeRx (f : Frame6) : Except Reject Instr :=
  if f.b0 = Config.hdrPersist then .ok (.wireParamsResponsePersist (CfgFields.ofFrame f))
  else if f.b0 = Config.hdrVolatile then .ok (.wireParamsResponseVolatile (CfgFields.ofFrame f))
  else if f.b0 = Config.hdrVersion then .ok (.wireVersionResponse (VerFields.ofFrame f))
  else .error (.unrecognizedHeader f.b0)

/-- The decoder, total on every word in every place. -/
def decode : FetchWord → Except Reject Instr
  | .cmd w => decodeCmd w
  | .lines c => .ok (decodeLines c)
  | .tx bytes => decodeTx bytes
  | .rx f => decodeRx f

/-! The encoder, from the same tables of spec/30_encoding.md. -/

/-- A command word: reserved bits 0, a mode field, an opcode (R71). -/
def hostCmd (mode : BitVec 2) (op : Byte) : Word := 0#6 ++ mode ++ op

/-- A command frame: three equal bytes (R73). -/
def wire3 (b : Byte) : List Byte := [b, b, b]

/-- The encoded form of an instruction (R70 to R76). -/
def encode : Instr → FetchWord
  | .setMode m => .cmd (hostCmd m.code 0x01#8)
  | .waitReady => .cmd (hostCmd 0#2 0x02#8)
  | .decodeCfg => .cmd (hostCmd 0#2 0x03#8)
  | .encodeCfg => .cmd (hostCmd 0#2 0x04#8)
  | .decodeVer => .cmd (hostCmd 0#2 0x05#8)
  | .readCfg => .cmd (hostCmd 0#2 0x06#8)
  | .writeCfg => .cmd (hostCmd 0#2 0x07#8)
  | .readVer => .cmd (hostCmd 0#2 0x08#8)
  | .resetModule => .cmd (hostCmd 0#2 0x09#8)
  | .initBlock => .cmd (hostCmd 0#2 0x0A#8)
  | .modeNormal => .lines Mode.normal.code
  | .modeWakeup => .lines Mode.wakeup.code
  | .modePowerSaving => .lines Mode.powerSaving.code
  | .modeProgram => .lines Mode.program.code
  | .wireReadParams => .tx (wire3 Config.cmdReadParams)
  | .wireReadVersion => .tx (wire3 Config.cmdReadVersion)
  | .wireReset => .tx (wire3 Config.cmdReset)
  | .wireWritePersist c => .tx (c.toFrame Config.hdrPersist).bytes
  | .wireWriteVolatile c => .tx (c.toFrame Config.hdrVolatile).bytes
  | .wireParamsResponsePersist c => .rx (c.toFrame Config.hdrPersist)
  | .wireParamsResponseVolatile c => .rx (c.toFrame Config.hdrVolatile)
  | .wireVersionResponse v => .rx v.toFrame

/-- How many bits an encoded instruction has (R77). -/
def FetchWord.bits : FetchWord → Nat
  | .cmd _ => 16
  | .lines _ => 2
  | .tx bytes => 8 * bytes.length
  | .rx _ => 48

/-- The six bytes of a 48-bit number, byte 0 on top, as spec/opcode_table.json numbers the WIRE6 rows. -/
def frameOfNat (w : Nat) : Frame6 where
  b0 := BitVec.ofNat 8 (w / 2 ^ 40)
  b1 := BitVec.ofNat 8 (w / 2 ^ 32)
  b2 := BitVec.ofNat 8 (w / 2 ^ 24)
  b3 := BitVec.ofNat 8 (w / 2 ^ 16)
  b4 := BitVec.ofNat 8 (w / 2 ^ 8)
  b5 := BitVec.ofNat 8 w

/-- The word a table row's bits are, in its place. A row of at most 8 bits is a MODE2 code, of 16 a CMD word, of 24 a
WIRE3 frame, of 48 a WIRE6 frame. The table gives the write frames and the parameters responses the same bits (R74,
R75); such bits are taken as the frame sent, and header C3 as the version response (log entry 10). -/
def tableWord (nbits w : Nat) : FetchWord :=
  if nbits ≤ 8 then
    if w < 4 then .lines (BitVec.ofNat 2 w) else .tx [BitVec.ofNat 8 w]
  else if nbits ≤ 16 then .cmd (BitVec.ofNat 16 w)
  else if nbits ≤ 24 then
    .tx [BitVec.ofNat 8 (w / 2 ^ 16), BitVec.ofNat 8 (w / 2 ^ 8), BitVec.ofNat 8 w]
  else
    let f := frameOfNat w
    if f.b0 = Config.hdrVersion then .rx f else .tx f.bytes

/-- The instruction the decoder reads from a table row's bits. -/
def decodeTableWord (nbits w : Nat) : Option Instr :=
  match decode (tableWord nbits w) with
  | .ok i => some i
  | .error _ => none

end Sys2Proof
end

