-- ==== Sys2Proof/Machine/State.lean ====
section
/-! DEFINITION. The state of the machine as plain data: the host interface registers (R24), the Mode Controller's state
(R25 to R28), the caches (R29); and the model's own fields: the block's parameters, the host's moves still to come, the
environment's answers still to come, the counters of the free values, the record of the environment events performed,
and the sequencer, which holds how far an operation has come (R21: progress, not architectural state). The block has no
memory (R50), no program counter (R21), no flags and no register file (R22). -/

namespace Sys2Proof.Machine

open Sys2Proof

/-- GPIO_DIR (R27): the direction configured for each of the three pins. -/
structure GpioDir where
  busy  : Dir
  modeA : Dir
  modeB : Dir
  deriving DecidableEq, Repr

/-- The environment primitives (R14), with their arguments. -/
inductive Prim where
  | gpioSetDir (pin : Nat) (dir : Dir)
  | gpioWrite (pin : Nat) (level : Level)
  /-- The two mode-select writes as one event (R102, `atomic`). -/
  | gpioWriteBoth (pinA : Nat) (levelA : Level) (pinB : Nat) (levelB : Level)
  | gpioRead (pin : Nat)
  | delay (ms : Nat)
  | serialClose (port : Nat)
  | serialOpen (port : Nat) (cfg : SerialCfg)
  | serialWrite (port : Nat) (bytes : List Byte)
  | serialRead (port : Nat) (n : Nat) (timeoutMs : Nat)
  deriving DecidableEq, Repr

/-- What the environment answered to a primitive (R14). -/
inductive Reply where
  | ok
  | ioError
  | level (l : Level)
  | bytes (f : Frame6)
  | timeout
  deriving DecidableEq, Repr

/-- One environment interaction: the primitive and its answer (R14, R55). -/
structure Event where
  prim  : Prim
  reply : Reply
  deriving DecidableEq, Repr

/-- One move: of the host (R7, R20, R91), or a word on the lines or the wire (R72 to R76). -/
inductive HostMove where
  /-- FRAME_IN <- f: an operand load, not an operation (R91). -/
  | loadFrameIn (f : Frame6)
  /-- CFG_IN <- c: an operand load, not an operation (R91). -/
  | loadCfgIn (c : ConfigurationRegister)
  /-- A word. `.cmd w` is the host writing CMD (R20). `.rx f` is the environment delivering six bytes (R7, R15). A code on
  the lines or a frame to send is the part of an operation that the block performs next, and is nothing outside one: no
  host drives the lines or sends a frame (R240; DESIGN CHOICE, log entry 9). -/
  | issue (w : FetchWord)
  deriving DecidableEq, Repr

/-- One line of a rule's pseudocode: at most one environment primitive that the environment answers. -/
inductive Action where
  /-- `GpioSetDir(PIN_BUSY, INPUT); GPIO_DIR.busy <- INPUT` (R171). -/
  | setDirBusy
  /-- `GpioSetDir(PIN_MODE_A, OUTPUT); GPIO_DIR.a <- OUTPUT` (R171). -/
  | setDirModeA
  /-- `GpioSetDir(PIN_MODE_B, OUTPUT); GPIO_DIR.b <- OUTPUT` (R171). -/
  | setDirModeB
  /-- Both mode-select lines as one event (R102, `atomic`). -/
  | writeBoth (m : Mode)
  /-- `GpioWrite(PIN_MODE_A, m[1]); LINE_A <- m[1]` (R102). -/
  | writeA (m : Mode)
  /-- `GpioWrite(PIN_MODE_B, m[0]); LINE_B <- m[0]` (R102). -/
  | writeB (m : Mode)
  /-- `MODE_STATE <- m` (R101). -/
  | commitMode (m : Mode)
  /-- The loop of WAIT_READY and its settle delay (R104), with the loop's locals `n` and `waited`. -/
  | poll (n waited : Nat)
  /-- `if SERIAL_OPEN then SerialClose(PORT); SERIAL_OPEN <- false` (R103). -/
  | closePort
  /-- `SerialOpen(PORT, cfg); SERIAL_OPEN <- true; SERIAL_CFG <- cfg`, with `cfg` that of mode m (R101, R103). -/
  | openPort (m : Mode)
  /-- `SerialWrite(PORT, bytes)`. -/
  | send (bytes : List Byte)
  /-- `F <- EncodeCfg(CFG_IN); SerialWrite(PORT, F)` (R163). -/
  | sendCfgIn
  /-- `r <- SerialRead(PORT, 6, READ_TIMEOUT_MS)` (R161). -/
  | receive
  /-- `if r == TIMEOUT and not RESTORE_ON_READ_TIMEOUT then raise TimeoutError(READ)` (R162). -/
  | giveUpEarly
  /-- `if r == TIMEOUT then raise TimeoutError(READ); c <- DecodeCfg(r); CFG_OUT <- c; CFG_CACHE <- c` (R160). -/
  | acceptCfg
  /-- `if r == TIMEOUT then raise TimeoutError(READ); v <- DecodeVer(r); VER_OUT <- v; VER_CACHE <- v` (R164). -/
  | acceptVer
  /-- `RESULT <- OK`, the end of an operation. -/
  | resultOk
  deriving DecidableEq, Repr

/-- The local `r` of READ_CFG and READ_VER: what the last SerialRead returned. -/
inductive Held where
  | nothing
  | timeout
  | bytes (f : Frame6)
  deriving DecidableEq, Repr

/-- How far the operation in progress has come (R21). `todo` is what is left of it, empty when the block is idle;
`wrap` says that the operation is INITIALIZE, which catches every error to wrap it (R171, R172). -/
structure Sequencer where
  todo : List Action
  wrap : Bool
  held : Held
  deriving DecidableEq, Repr

/-- No operation in progress. -/
def Sequencer.idle : Sequencer where
  todo := []
  wrap := false
  held := .nothing

/-- The state. INVENTORY.md lists each field with its rule and reset value. -/
structure State where
  params     : Params
  cmd        : Word
  frameIn    : Frame6
  cfgIn      : ConfigurationRegister
  frameOut   : Frame6
  cfgOut     : ConfigurationRegister
  verOut     : VersionInfo
  result     : Byte
  errInfo    : Byte
  mode       : Mode
  lineA      : Level
  lineB      : Level
  gpioDir    : GpioDir
  serialOpen : Bool
  serialCfg  : Option SerialCfg
  cfgCache   : Option ConfigurationRegister
  verCache   : Option VersionInfo
  inputs     : List HostMove
  answers    : List Answer
  asked      : Nat
  draws      : Nat
  trace      : List Event
  seq        : Sequencer
  deriving DecidableEq, Repr

/-- Why the machine stops. -/
inductive Fault where
  /-- `Sys2Proof.Machine.State.rejected` raises it: bytes were issued to be sent that are none of the frames of R73 and
  R74, so no rule gives them an effect. No host command leads to it. Safe: the machine stops. -/
  | notAFrame
  deriving DecidableEq, Repr

/-- Why an instruction has no meaning. -/
inductive Refusal where
  /-- `Sys2Proof.Machine.exec` answers it for an instruction that has no meaning yet. Safe: the machine stops. Every
  instruction has its meaning, so nothing answers it. -/
  | notModelled (mnemonic : String)
  deriving DecidableEq, Repr

/-- The state after reset of the block with parameters p (R31, R230, R231): MODE_STATE Normal, the pins unconfigured,
the port not open and without settings, the caches empty, no event performed, no operation in progress. The registers
the spec leaves unspecified hold free values (log entry 2). -/
def State.resetWith (p : Params) : State where
  params := p
  cmd := Config.resetCmd
  frameIn := Config.resetFrameIn
  cfgIn := Config.resetCfgIn
  frameOut := Config.resetFrameOut
  cfgOut := Config.resetCfgOut
  verOut := Config.resetVerOut
  result := Config.resetResult
  errInfo := Config.resetErrInfo
  mode := .normal
  lineA := Config.resetLineA
  lineB := Config.resetLineB
  gpioDir := ⟨.unconfigured, .unconfigured, .unconfigured⟩
  serialOpen := false
  serialCfg := none
  cfgCache := none
  verCache := none
  inputs := []
  answers := []
  asked := 0
  draws := 0
  trace := []
  seq := Sequencer.idle

/-- The machine right after reset, for the parameters of `Config.params`. -/
def State.reset : State := State.resetWith Config.params

end Sys2Proof.Machine
end

