-- ==== Sys2Proof/Machine/Flags.lean ====
section
/-! DEFINITION. The block has no flags (R22): RESULT, with ERR_INFO beside it, is the only status. This file holds the
result codes (spec/60_exceptions.md R201) and the errors that give them. -/

namespace Sys2Proof.Machine

open Sys2Proof

/-- The errors an operation can raise (R200). -/
inductive Err where
  /-- IoError (R203). -/
  | io
  /-- TimeoutError(READ) (R161, R205). -/
  | timeoutRead
  /-- TimeoutError(READY) (R106, R205). -/
  | timeoutReady
  /-- ProtocolError(UNRECOGNIZED_HEADER, h) (R204). -/
  | protocol (h : Byte)
  deriving DecidableEq, Repr

/-- OK (R201). -/
def codeOk : Byte := 0x00#8

/-- ILLEGAL_OP (R201, R207). -/
def codeIllegalOp : Byte := 0x05#8

/-- The result code of an error (R201). -/
def Err.code : Err → Byte
  | .io => 0x01#8
  | .timeoutRead => 0x02#8
  | .timeoutReady => 0x03#8
  | .protocol _ => 0x04#8

/-- INIT_ERROR(inner): the code INITIALIZE reports for an inner error (R201, R206). -/
def initCode (inner : Byte) : Byte := 0x80#8 ||| inner

/-- The code that RESULT gets for an error, wrapped when INITIALIZE caught it (R201, R206). -/
def Err.resultCode (wrap : Bool) (e : Err) : Byte :=
  if wrap then initCode e.code else e.code

/-- What ERR_INFO holds after an error: the header byte after a ProtocolError, else what it held (R24, R202, R204). -/
def Err.infoAfter (old : Byte) : Err → Byte
  | .io => old
  | .timeoutRead => old
  | .timeoutReady => old
  | .protocol h => h

end Sys2Proof.Machine
end

