-- ==== Sys2Proof/Machine/Operands.lean ====
section
/-! DEFINITION. The operand forms: the code tables of the configuration register (spec/30_encoding.md R80 to R87), the
pure codec functions DecodeCfg, EncodeCfg and DecodeVer (spec/41_register_codec.md R120 to R141), and the serial-port
settings of a mode (R9, R72, R101). The tables are lists in code order, so that one can be corrected by itself (spec/92
D3 to D5). -/

namespace Sys2Proof.Machine

open Sys2Proof

/-- The value of a code: the table's entry, or the documented default for a code outside it (R90, R121). -/
def tableDec {α : Type} {n : Nat} (table : List α) (dflt : α) (code : BitVec n) : α :=
  table.getD code.toNat dflt

/-- The code of a value: the first code the table gives it, or all zeros for a value not in the table (R87). -/
def tableEnc {α : Type} [DecidableEq α] (n : Nat) (table : List α) (v : α) : BitVec n :=
  if v ∈ table then BitVec.ofNat n (table.idxOf v) else 0#n

/-- Parity codes (R81; general knowledge G3, log entry 16). Code 0b11 is outside the table. -/
def parityTable : List Parity := [.none, .odd, .even]

/-- Baud codes (R82; general knowledge G4, log entry 16). -/
def baudTable : List Nat := [1200, 2400, 4800, 9600, 19200, 38400, 57600, 115200]

/-- Air-rate codes (R83; general knowledge G5, log entry 16): 0b101, 0b110 and 0b111 are duplicates. -/
def airTable : List Nat := [300, 1200, 2400, 4800, 9600, 19200, 19200, 19200]

/-- Wake-up codes (R85). -/
def wakeTable : List Nat := [250, 500, 750, 1000, 1250, 1500, 1750, 2000]

/-- Power codes (R86). -/
def powerTable : PowerTable → List Nat
  | .high => [30, 27, 24, 21]
  | .low => [20, 17, 14, 10]

/-- DecodeCfg of a frame whose header is valid: every raw code gives a value (R121, R123). -/
def decodeFields (pt : PowerTable) (persistent : Bool) (c : CfgFields) : ConfigurationRegister where
  persistent := persistent
  address := c.address
  parity := tableDec parityTable .none c.parity
  baud := tableDec baudTable 9600 c.baud
  airRate := tableDec airTable 2400 c.air
  channel := c.channel
  fixed := c.fixed
  pullup := c.pullup
  wakeup := tableDec wakeTable 250 c.wakeup
  fec := c.fec
  power := tableDec (powerTable pt) 30 c.power

/-- `DecodeCfg(F)` (R121): the header is checked before any field is decoded (R122). The error is the header byte. -/
def decodeCfgFrame (pt : PowerTable) (f : Frame6) : Except Byte ConfigurationRegister :=
  if f.b0 = Config.hdrPersist then .ok (decodeFields pt true (CfgFields.ofFrame f))
  else if f.b0 = Config.hdrVolatile then .ok (decodeFields pt false (CfgFields.ofFrame f))
  else .error f.b0

/-- The raw fields that encode emits (R130, R87). -/
def encodeFields (pt : PowerTable) (c : ConfigurationRegister) : CfgFields where
  address := c.address
  parity := tableEnc 2 parityTable c.parity
  baud := tableEnc 3 baudTable c.baud
  air := tableEnc 3 airTable c.airRate
  channel := c.channel
  fixed := c.fixed
  pullup := c.pullup
  wakeup := tableEnc 3 wakeTable c.wakeup
  fec := c.fec
  power := tableEnc 2 (powerTable pt) c.power

/-- `EncodeCfg(c)` (R130): it never raises. -/
def encodeCfgFrame (pt : PowerTable) (c : ConfigurationRegister) : Frame6 :=
  (encodeFields pt c).toFrame (if c.persistent then Config.hdrPersist else Config.hdrVolatile)

/-- `DecodeVer(V)` (R140), with the corrected mapping (R141). The error is the header byte. -/
def decodeVerFrame (f : Frame6) : Except Byte VersionInfo :=
  if f.b0 = Config.hdrVersion then .ok ⟨f.b1, f.b2, f.b3⟩ else .error f.b0

/-- The settings the port is opened with in a mode: 9600 in Program and OP_BAUD in the others, 8 data bits, no parity,
1 stop bit, no flow control (R9, R72, R101). -/
def serialCfgOf (p : Params) (m : Mode) : SerialCfg where
  baud := if m = .program then Config.programBaud else p.opBaud
  dataBits := 8
  parity := .none
  stopBits := 1
  flow := .none

/-- `READY_TIMEOUT_MS != none and waited >= READY_TIMEOUT_MS` (R104, R106). -/
def readyExpired (p : Params) (waited : Nat) : Bool :=
  match p.readyTimeoutMs with
  | none => false
  | some t => decide (t ≤ waited)

end Sys2Proof.Machine
end

