-- ==== Sys2Proof/Machine/Ops.lean ====
section
/-! DEFINITION. The operations all instructions share: performing an environment primitive (R14, R15), raising an error
and ending an operation (R13, R202), each line of the rules' pseudocode (`runAction`), a whole sequence of lines
(`runSeq`), the pieces the rules are made of (WriteModeLines R102, ReconfigureSerial R103, SET_MODE R101), and what the
block takes up next (`State.fetch`).

HOW AN OPERATION RUNS. From the host's view each operation is one step (R20): `runOp` runs all of it, taking the
environment's answers from State in order. Where State lists no further answer, the primitive stays unanswered: the
operation stands where it is, in the sequencer, and goes on at the next step, which draws an answer of the oracle. So a
wait that is never answered HIGH is an infinite execution (R105), and no answer is assumed (R15). -/

namespace Sys2Proof.Machine

open Sys2Proof

/-! Updates of the state. -/

/-- One environment event, after all before it (R55). -/
def State.record (s : State) (p : Prim) (r : Reply) : State :=
  { s with trace := s.trace ++ [⟨p, r⟩] }

/-- The answers still to come after one was taken. -/
def State.withAnswers (s : State) (as : List Answer) : State :=
  { s with answers := as }

/-- `Delay(ms)`: it never fails and takes no answer (R14, D21). -/
def State.delay (s : State) (ms : Nat) : State :=
  s.record (.delay ms) .ok

/-- The sequencer with no operation in progress. -/
def State.idle (s : State) : State :=
  { s with seq := Sequencer.idle }

/-- The local `r` of a read (R160, R164). -/
def State.hold (s : State) (h : Held) : State :=
  { s with seq := { s.seq with held := h } }

/-- `RESULT <- v` (R201). -/
def State.withResult (s : State) (v : Byte) : State :=
  { s with result := v }

/-- `LINE_A <- l` (R26). -/
def State.withLineA (s : State) (l : Level) : State :=
  { s with lineA := l }

/-- `LINE_B <- l` (R26). -/
def State.withLineB (s : State) (l : Level) : State :=
  { s with lineB := l }

/-- LINE_A is left at a level that is not specified (R102). -/
def State.loseLineA (s : State) : State :=
  { s with lineA := Config.freeLevel s.draws, draws := s.draws + 1 }

/-- LINE_B is left at a level that is not specified (R102). -/
def State.loseLineB (s : State) : State :=
  { s with lineB := Config.freeLevel s.draws, draws := s.draws + 1 }

/-- SERIAL_OPEN and SERIAL_CFG are left unspecified (R103). -/
def State.losePort (s : State) : State :=
  { s with
    serialOpen := Config.freeSerialOpen s.draws
    serialCfg := Config.freeSerialCfg s.draws
    draws := s.draws + 1 }

/-- Raising an error: the operation ends at once, RESULT takes the error's code and ERR_INFO the header byte of a
ProtocolError, and nothing is undone (R13, R202). `wrap` is set inside INITIALIZE, which catches every error only to
raise it wrapped (R171, R172, R206). There is no vector and nothing to return to (R202, R209). -/
def State.raise (s : State) (wrap : Bool) (e : Err) : State :=
  { s with result := e.resultCode wrap, errInfo := e.infoAfter s.errInfo, seq := Sequencer.idle }

/-- An illegal CMD: RESULT <- ILLEGAL_OP, and nothing else (R89, R207). -/
def State.illegalOp (s : State) : State :=
  s.withResult codeIllegalOp

/-! Running pseudocode. -/

/-- How far a piece of pseudocode came. -/
inductive Run where
  /-- It ran to its end. -/
  | done (s : State)
  /-- It stands before a primitive that has no answer yet, with the lines `todo` left. -/
  | awaits (todo : List Action) (s : State)
  /-- It raised an error. -/
  | raised (e : Err) (s : State)
  deriving DecidableEq, Repr

/-- A primitive that answers ok or fails with IoError (R14, R203): `a` is the line it stands in, `onOk` what the line
writes after success, `onFail` what a failure leaves. -/
def attempt (a : Action) (p : Prim) (onOk onFail : State → State) (s : State) : Run :=
  match s.answers with
  | [] => .awaits [a] s
  | ans :: rest =>
    if ans.fails then .raised .io (onFail ((s.withAnswers rest).record p .ioError))
    else .done (onOk ((s.withAnswers rest).record p .ok))

/-- The loop of WAIT_READY and its settle delay (R104), over the answers listed: a sample is taken first and the delay
comes second; a LOW sample sets the count back to 0; the count is tested before the timeout (R106). -/
def pollFrom : List Answer → Nat → Nat → State → Run
  | [], n, waited, s => .awaits [.poll n waited] (s.withAnswers [])
  | a :: rest, n, waited, s =>
    let s0 := s.withAnswers rest
    if a.fails then .raised .io (s0.record (.gpioRead s.params.pinBusy) .ioError)
    else
      let s1 := s0.record (.gpioRead s.params.pinBusy) (.level a.level)
      let n1 := if a.level = .high then n + 1 else 0
      if s.params.readySamples ≤ n1 then .done (s1.delay Config.settleMs)
      else if readyExpired s.params waited then .raised .timeoutReady s1
      else pollFrom rest n1 (waited + Config.pollIntervalMs) (s1.delay Config.pollIntervalMs)

/-- `SerialRead(PORT, 6, READ_TIMEOUT_MS)`: exactly six bytes, TIMEOUT, or IoError (R14, R161). -/
def readResponse (s : State) : Run :=
  let p : Prim := .serialRead s.params.port 6 Config.readTimeoutMs
  match s.answers with
  | [] => .awaits [.receive] s
  | ans :: rest =>
    let s0 := s.withAnswers rest
    if ans.fails then .raised .io (s0.record p .ioError)
    else
      match ans.rx with
      | none => .done ((s0.record p .timeout).hold .timeout)
      | some f => .done ((s0.record p (.bytes f)).hold (.bytes f))

/-- `SerialWrite(PORT, bytes)` (R14, R54), standing in the line `a`. -/
def sendBytes (a : Action) (bytes : List Byte) (s : State) : Run :=
  attempt a (.serialWrite s.params.port bytes) id id s

/-- A parameters response is decoded and kept, in CFG_OUT and CFG_CACHE (R160). -/
def acceptCfgResponse (f : Frame6) (s : State) : Run :=
  match decodeCfgFrame s.params.powerTable f with
  | .ok c => .done { s with cfgOut := c, cfgCache := some c }
  | .error h => .raised (.protocol h) s

/-- A version response is decoded and kept, in VER_OUT and VER_CACHE (R164). -/
def acceptVerResponse (f : Frame6) (s : State) : Run :=
  match decodeVerFrame f with
  | .ok v => .done { s with verOut := v, verCache := some v }
  | .error h => .raised (.protocol h) s

/-- The last lines of READ_CFG: a held read timeout is raised (R160, R208 (3)), bytes are decoded. No sequence comes
here with nothing read; the line then does nothing. -/
def acceptHeldCfg (s : State) : Run :=
  match s.seq.held with
  | .nothing => .done s
  | .timeout => .raised .timeoutRead s
  | .bytes f => acceptCfgResponse f s

/-- The last lines of READ_VER (R164). -/
def acceptHeldVer (s : State) : Run :=
  match s.seq.held with
  | .nothing => .done s
  | .timeout => .raised .timeoutRead s
  | .bytes f => acceptVerResponse f s

/-- The meaning of each line. -/
def runAction (a : Action) (s : State) : Run :=
  match a with
  | .setDirBusy => attempt a (.gpioSetDir s.params.pinBusy .input)
      (fun t => { t with gpioDir := { t.gpioDir with busy := .input } }) id s
  | .setDirModeA => attempt a (.gpioSetDir s.params.pinModeA .output)
      (fun t => { t with gpioDir := { t.gpioDir with modeA := .output } }) id s
  | .setDirModeB => attempt a (.gpioSetDir s.params.pinModeB .output)
      (fun t => { t with gpioDir := { t.gpioDir with modeB := .output } }) id s
  | .writeBoth m => attempt a
      (.gpioWriteBoth s.params.pinModeA m.levelA s.params.pinModeB m.levelB)
      (fun t => (t.withLineA m.levelA).withLineB m.levelB) (fun t => t.loseLineA.loseLineB) s
  | .writeA m => attempt a (.gpioWrite s.params.pinModeA m.levelA)
      (fun t => t.withLineA m.levelA) State.loseLineA s
  | .writeB m => attempt a (.gpioWrite s.params.pinModeB m.levelB)
      (fun t => t.withLineB m.levelB) State.loseLineB s
  | .commitMode m => .done { s with mode := m }
  | .poll n waited => pollFrom s.answers n waited s
  | .closePort =>
    if s.serialOpen then
      attempt a (.serialClose s.params.port) (fun t => { t with serialOpen := false }) State.losePort s
    else .done s
  | .openPort m => attempt a (.serialOpen s.params.port (serialCfgOf s.params m))
      (fun t => { t with serialOpen := true, serialCfg := some (serialCfgOf s.params m) }) State.losePort s
  | .send bytes => sendBytes a bytes s
  | .sendCfgIn => sendBytes a (encodeCfgFrame s.params.powerTable s.cfgIn).bytes s
  | .receive => readResponse s
  | .giveUpEarly =>
    if s.seq.held = .timeout ∧ s.params.restoreOnReadTimeout = false then .raised .timeoutRead s else .done s
  | .acceptCfg => acceptHeldCfg s
  | .acceptVer => acceptHeldVer s
  | .resultOk => .done (s.withResult codeOk)

/-- The lines of a piece of pseudocode in program order, each complete before the next begins (R55); the first raise
ends them (R13). -/
def runSeq : List Action → State → Run
  | [], s => .done s
  | a :: rest, s =>
    match runAction a s with
    | .done t => runSeq rest t
    | .awaits todo t => .awaits (todo ++ rest) t
    | .raised e t => .raised e t

/-- The state in which a run leaves the block: idle after its end or an error, or with what is left of it in the
sequencer. -/
def conclude (wrap : Bool) : Run → State
  | .done s => s.idle
  | .awaits todo s => { s with seq := ⟨todo, wrap, s.seq.held⟩ }
  | .raised e s => s.raise wrap e

/-- An operation, from its first line on (R20). -/
def runOp (wrap : Bool) (acts : List Action) (s : State) : State :=
  conclude wrap (runSeq acts s.idle)

/-- The environment's next answer, drawn of the oracle where State lists none (R15, log entry 6). -/
def State.supply (s : State) : State :=
  match s.answers with
  | [] => { s with answers := [Config.oracle s.asked], asked := s.asked + 1 }
  | _ :: _ => s

/-- The operation in progress goes on. -/
def State.resume (s : State) : State :=
  conclude s.seq.wrap (runSeq s.seq.todo s.supply)

/-! The pieces of the rules' pseudocode. -/

/-- WriteModeLines(m), in the order MODE_WRITE_ORDER gives (R102). -/
def writeModeLines (p : Params) (m : Mode) : List Action :=
  match p.modeWriteOrder with
  | .atomic => [.writeBoth m]
  | .aThenB => [.writeA m, .writeB m]
  | .bThenA => [.writeB m, .writeA m]

/-- The loop of WAIT_READY from its start (R104). -/
def waitReadyLines : List Action := [.poll 0 0]

/-- ReconfigureSerial for mode m (R103). -/
def reconfigureSerial (m : Mode) : List Action := [.closePort, .openPort m]

/-- SET_MODE(m) up to its RESULT: the lines, MODE_STATE, the wait, the port, in that order (R55, R101). -/
def setModeLines (p : Params) (m : Mode) : List Action :=
  writeModeLines p m ++ [.commitMode m] ++ waitReadyLines ++ reconfigureSerial m

/-- READ_CFG up to its RESULT (R160). -/
def readCfgLines (p : Params) : List Action :=
  setModeLines p .program ++ [.send (wire3 Config.cmdReadParams), .receive, .giveUpEarly]
    ++ setModeLines p .normal ++ [.acceptCfg]

/-- READ_VER up to its RESULT (R164). -/
def readVerLines (p : Params) : List Action :=
  setModeLines p .program ++ [.send (wire3 Config.cmdReadVersion), .receive, .giveUpEarly]
    ++ setModeLines p .normal ++ [.acceptVer]

/-- WRITE_CFG up to its RESULT (R163). -/
def writeCfgLines (p : Params) : List Action :=
  setModeLines p .program ++ [.sendCfgIn] ++ setModeLines p .normal

/-- RESET_MODULE up to its RESULT (R165, R166): it ends in Program. -/
def resetModuleLines (p : Params) : List Action :=
  setModeLines p .program ++ [.send (wire3 Config.cmdReset)] ++ waitReadyLines ++ setModeLines p .program

/-- What INITIALIZE encloses in its `try` (R171, R233). -/
def initLines (p : Params) : List Action :=
  [.setDirBusy, .setDirModeA, .setDirModeB] ++ setModeLines p .normal ++ readVerLines p ++ readCfgLines p

/-- Six bytes arrive on the wire (R75, R76). A SerialRead that an operation is performing returns them and the operation
goes on (R161): what they do is what that operation does with them. With no SerialRead under way they stay in the
receive stream, which is the environment's and not kept (R30, R54): nothing of the block changes (log entry 9). -/
def State.deliver (f : Frame6) (s : State) : State :=
  match s.seq.todo with
  | .receive :: todo =>
    conclude s.seq.wrap (runSeq todo
      ((s.record (.serialRead s.params.port 6 Config.readTimeoutMs) (.bytes f)).hold (.bytes f)))
  | _ => s

/-- Does an operation that stands before this line stand before the word w? A write of the mode-select lines is one of a
code (R72, R102), a SerialWrite one of a frame (R73, R74, R170 (2)), and the SerialRead is that of any six bytes (R161). -/
def Action.standsAt (s : State) (a : Action) (w : FetchWord) : Bool :=
  match a, w with
  | .writeBoth m, .lines c => decide (m.code = c)
  | .writeA m, .lines c => decide (m.code = c)
  | .writeB m, .lines c => decide (m.code = c)
  | .send bytes, .tx frame => decide (bytes = frame)
  | .sendCfgIn, .tx frame => decide ((encodeCfgFrame s.params.powerTable s.cfgIn).bytes = frame)
  | .receive, .rx _ => true
  | _, _ => false

/-- How many of the lines an operation stands before make up w: for a code the writes of it that are still to come, for a
frame its one SerialWrite, and none where the operation does not stand before w. -/
def State.linesOf (s : State) (w : FetchWord) : Nat :=
  match w with
  | .lines _ => (s.seq.todo.takeWhile (·.standsAt s w)).length
  | _ => ((s.seq.todo.take 1).takeWhile (·.standsAt s w)).length

/-- A run that has ended stands before the lines `rest`. -/
def Run.standsBefore (rest : List Action) : Run → Run
  | .done t => .awaits rest t
  | .awaits todo t => .awaits (todo ++ rest) t
  | .raised e t => .raised e t

/-- The block puts w out: the code on the mode-select lines, or the frame on the wire. Only an operation does so, as the part
of it that it stands before; that part is performed, and the operation stands after it. No operation in progress, or one
that does not stand before w, puts out nothing: the lines change only in SET_MODE, and a frame is sent only in a command
sequence, after its SET_MODE(Program) (R102, R170, R240; log entry 9). -/
def State.perform (w : FetchWord) (s : State) : State :=
  let n := s.linesOf w
  if n = 0 then s
  else conclude s.seq.wrap ((runSeq (s.seq.todo.take n) s.supply).standsBefore (s.seq.todo.drop n))

/-! What the block takes up next. -/

/-- What a step finds. -/
inductive Fetched where
  /-- An operation is in progress. -/
  | running
  /-- Nothing: the block waits for the host (R231). -/
  | waiting
  /-- The host loaded an operand register. -/
  | loaded (s : State)
  /-- A word was issued; `s` is the state in which it is run. -/
  | word (w : FetchWord) (s : State)
  deriving DecidableEq, Repr

/-- The word that an operation in progress stands before, where it is the next move: bytes that arrive at its SerialRead
(R15, R161), or the code or the frame that it puts out next (log entry 9). It is never a command. -/
def State.awaited (s : State) : Option FetchWord :=
  match s.seq.todo, s.inputs with
  | a :: _, .issue w :: _ => if a.standsAt s w then some w else none
  | _, _ => none

/-- An operation in progress goes on before the host's next move: operations do not overlap (R20, R56, R215). The one move
it takes is a word that it stands before. A word issued to CMD is written there (R24). -/
def State.fetch (s : State) : Fetched :=
  match s.awaited with
  | some w => .word w { s with inputs := s.inputs.tail }
  | none =>
    match s.seq.todo, s.inputs with
    | _ :: _, _ => .running
    | [], [] => .waiting
    | [], .loadFrameIn f :: rest => .loaded { s with inputs := rest, frameIn := f }
    | [], .loadCfgIn c :: rest => .loaded { s with inputs := rest, cfgIn := c }
    | [], .issue (.cmd w) :: rest => .word (.cmd w) { s with inputs := rest, cmd := w }
    | [], .issue w :: rest => .word w { s with inputs := rest }

/-- What a word does that is no instruction. An illegal CMD is refused with ILLEGAL_OP (R89, R207). Six bytes with an
unrecognised header arrive like any others: an operation that reads them raises ProtocolError when it decodes them, and
nothing else does (R204, R243). Bytes to send that are no frame have no meaning (log entry 18). -/
def State.rejected (w : FetchWord) (r : Reject) (s : State) : Host.Outcome State Fault Refusal :=
  match r with
  | .unknownOpcode _ => .next s.illegalOp
  | .reservedBits => .next s.illegalOp
  | .modeOnOtherOp => .next s.illegalOp
  | .unrecognizedHeader _ =>
    match w with
    | .rx f => .next (s.deliver f)
    | _ => .next s
  | .notAFrame => .fault .notAFrame

/-- s with a word as the host's very next move and no operation in progress. -/
def State.issueNext (s : State) (w : FetchWord) : State :=
  { s with inputs := .issue w :: s.inputs, seq := Sequencer.idle }

end Sys2Proof.Machine
end

