-- ==== Sys2Proof/Machine/Codec.lean ====
section
/-! DEFINITION. The Register Codec's operations (spec/41_register_codec.md): DECODE_CFG, ENCODE_CFG and DECODE_VER wrap
the pure functions of Operands.lean. They perform no environment primitive (R120). -/

namespace Sys2Proof.Machine

open Sys2Proof

/-- DECODE_CFG (R121): CFG_OUT and RESULT on success, RESULT and ERR_INFO on a raise. -/
def execDecodeCfg (s : State) : Host.Outcome State Fault Refusal :=
  .next (match decodeCfgFrame s.params.powerTable s.frameIn with
    | .ok c => { s.idle with cfgOut := c, result := codeOk }
    | .error h => s.raise false (.protocol h))

/-- ENCODE_CFG (R130): it never raises. -/
def execEncodeCfg (s : State) : Host.Outcome State Fault Refusal :=
  .next { s.idle with frameOut := encodeCfgFrame s.params.powerTable s.cfgIn, result := codeOk }

/-- DECODE_VER (R140): VER_OUT and RESULT on success, RESULT and ERR_INFO on a raise. -/
def execDecodeVer (s : State) : Host.Outcome State Fault Refusal :=
  .next (match decodeVerFrame s.frameIn with
    | .ok v => { s.idle with verOut := v, result := codeOk }
    | .error h => s.raise false (.protocol h))

end Sys2Proof.Machine
end

