-- ==== Sys2Proof/Machine/ModeController.lean ====
section
/-! DEFINITION. The Mode Controller's operations (spec/40_mode_controller.md): SET_MODE and WAIT_READY, and the four
codes on the mode-select lines (R72), which the WriteModeLines of a SET_MODE drives (R102) and nothing else does (R240). -/

namespace Sys2Proof.Machine

open Sys2Proof

/-- SET_MODE(m) (R101). -/
def execSetMode (m : Mode) (s : State) : Host.Outcome State Fault Refusal :=
  .next (runOp false (setModeLines s.params m ++ [.resultOk]) s)

/-- WAIT_READY (R104). -/
def execWaitReady (s : State) : Host.Outcome State Fault Refusal :=
  .next (runOp false (waitReadyLines ++ [.resultOk]) s)

/-- The code 00 on the lines: the line writes of the SET_MODE(Normal) that an operation stands at (R72, R102). With no such
write to come the lines keep their levels (R240). -/
def execModeNormal (s : State) : Host.Outcome State Fault Refusal :=
  .next (s.perform (.lines Mode.normal.code))

/-- The code 01 on the lines: the line writes of SET_MODE(Wakeup) (R72, R102, R240). -/
def execModeWakeup (s : State) : Host.Outcome State Fault Refusal :=
  .next (s.perform (.lines Mode.wakeup.code))

/-- The code 10 on the lines: the line writes of SET_MODE(PowerSaving) (R72, R102, R240). -/
def execModePowerSaving (s : State) : Host.Outcome State Fault Refusal :=
  .next (s.perform (.lines Mode.powerSaving.code))

/-- The code 11 on the lines: the line writes of SET_MODE(Program) (R72, R102, R240). -/
def execModeProgram (s : State) : Host.Outcome State Fault Refusal :=
  .next (s.perform (.lines Mode.program.code))

end Sys2Proof.Machine
end

