-- ==== Sys2Proof/Machine/Sequences.lean ====
section
/-! DEFINITION. The command sequences (spec/42_command_sequences.md): READ_CFG, WRITE_CFG, READ_VER, RESET_MODULE and
INITIALIZE. -/

namespace Sys2Proof.Machine

open Sys2Proof

/-- READ_CFG (R160). -/
def execReadCfg (s : State) : Host.Outcome State Fault Refusal :=
  .next (runOp false (readCfgLines s.params ++ [.resultOk]) s)

/-- WRITE_CFG (R163). -/
def execWriteCfg (s : State) : Host.Outcome State Fault Refusal :=
  .next (runOp false (writeCfgLines s.params ++ [.resultOk]) s)

/-- READ_VER (R164). -/
def execReadVer (s : State) : Host.Outcome State Fault Refusal :=
  .next (runOp false (readVerLines s.params ++ [.resultOk]) s)

/-- RESET_MODULE (R165). -/
def execResetModule (s : State) : Host.Outcome State Fault Refusal :=
  .next (runOp false (resetModuleLines s.params ++ [.resultOk]) s)

/-- INITIALIZE (R171): every error of its enclosed steps is wrapped (R172). -/
def execInitBlock (s : State) : Host.Outcome State Fault Refusal :=
  .next (runOp true (initLines s.params ++ [.resultOk]) s)

end Sys2Proof.Machine
end

