-- ==== Sys2Proof/Machine/Wire.lean ====
section
/-! DEFINITION. The frames on the serial wire (spec/30_encoding.md R73 to R76). A frame the block sends is the one
SerialWrite of a command sequence (R54, R170 (2)): bytes in index order, IoError if it fails (R203). Only the sequence that
stands at it sends it, after its SET_MODE(Program) (R240; log entry 9). A response that arrives is what the SerialRead of
READ_CFG or READ_VER returns (R160, R164); only inside the operation that reads it is it decoded and kept (R29, R60). -/

namespace Sys2Proof.Machine

open Sys2Proof

/-- C1 C1 C1, sent by READ_CFG (R73, R160). -/
def execWireReadParams (s : State) : Host.Outcome State Fault Refusal :=
  .next (s.perform (.tx (wire3 Config.cmdReadParams)))

/-- C3 C3 C3, sent by READ_VER (R73, R164). -/
def execWireReadVersion (s : State) : Host.Outcome State Fault Refusal :=
  .next (s.perform (.tx (wire3 Config.cmdReadVersion)))

/-- C4 C4 C4, sent by RESET_MODULE (R73, R165). -/
def execWireReset (s : State) : Host.Outcome State Fault Refusal :=
  .next (s.perform (.tx (wire3 Config.cmdReset)))

/-- A write frame with header C0, sent by WRITE_CFG (R74, R163). -/
def execWireWritePersist (c : CfgFields) (s : State) : Host.Outcome State Fault Refusal :=
  .next (s.perform (.tx (c.toFrame Config.hdrPersist).bytes))

/-- A write frame with header C2, sent by WRITE_CFG (R74, R163). -/
def execWireWriteVolatile (c : CfgFields) (s : State) : Host.Outcome State Fault Refusal :=
  .next (s.perform (.tx (c.toFrame Config.hdrVolatile).bytes))

/-- A parameters response with header C0, received (R75, R160). -/
def execWireParamsResponsePersist (c : CfgFields) (s : State) : Host.Outcome State Fault Refusal :=
  .next (s.deliver (c.toFrame Config.hdrPersist))

/-- A parameters response with header C2, received (R75, R160). -/
def execWireParamsResponseVolatile (c : CfgFields) (s : State) : Host.Outcome State Fault Refusal :=
  .next (s.deliver (c.toFrame Config.hdrVolatile))

/-- A version response, received (R76, R164). -/
def execWireVersionResponse (v : VerFields) (s : State) : Host.Outcome State Fault Refusal :=
  .next (s.deliver v.toFrame)

end Sys2Proof.Machine
end

