-- ==== Sys2Proof/Machine/Dispatch.lean ====
section
/-! DEFINITION. The meaning of each instruction: one arm per constructor. -/

namespace Sys2Proof.Machine

open Sys2Proof

def exec (i : Instr) (s : State) : Host.Outcome State Fault Refusal :=
  match i with
  | .setMode m => Sys2Proof.Machine.execSetMode m s
  | .waitReady => Sys2Proof.Machine.execWaitReady s
  | .decodeCfg => Sys2Proof.Machine.execDecodeCfg s
  | .encodeCfg => Sys2Proof.Machine.execEncodeCfg s
  | .decodeVer => Sys2Proof.Machine.execDecodeVer s
  | .readCfg => Sys2Proof.Machine.execReadCfg s
  | .writeCfg => Sys2Proof.Machine.execWriteCfg s
  | .readVer => Sys2Proof.Machine.execReadVer s
  | .resetModule => Sys2Proof.Machine.execResetModule s
  | .initBlock => Sys2Proof.Machine.execInitBlock s
  | .modeNormal => Sys2Proof.Machine.execModeNormal s
  | .modeWakeup => Sys2Proof.Machine.execModeWakeup s
  | .modePowerSaving => Sys2Proof.Machine.execModePowerSaving s
  | .modeProgram => Sys2Proof.Machine.execModeProgram s
  | .wireReadParams => Sys2Proof.Machine.execWireReadParams s
  | .wireReadVersion => Sys2Proof.Machine.execWireReadVersion s
  | .wireReset => Sys2Proof.Machine.execWireReset s
  | .wireWritePersist c => Sys2Proof.Machine.execWireWritePersist c s
  | .wireWriteVolatile c => Sys2Proof.Machine.execWireWriteVolatile c s
  | .wireParamsResponsePersist c => Sys2Proof.Machine.execWireParamsResponsePersist c s
  | .wireParamsResponseVolatile c => Sys2Proof.Machine.execWireParamsResponseVolatile c s
  | .wireVersionResponse v => Sys2Proof.Machine.execWireVersionResponse v s

end Sys2Proof.Machine
end

