-- ==== Sys2Proof/Machine/Step.lean ====
section
/-! DEFINITION. One step of the machine: an operation in progress goes on, or takes the word it stands before; else
the host's next move is taken: an operand load, or a word, which is decoded and run to its end (R20). With no move of the
host the block waits (R231). -/

namespace Sys2Proof.Machine

open Sys2Proof

def step (s : State) : Host.Outcome State Fault Refusal :=
  match s.fetch with
  | .running => .next s.resume
  | .waiting => .next s
  | .loaded t => .next t
  | .word w t =>
    match decode w with
    | .ok i => exec i t
    | .error r => t.rejected w r

/-- s with the instruction whose bits are w, numbered as spec/opcode_table.json numbers them, as the next one the block
takes up. How a program comes to run from reset: log entry 8. -/
def State.withFetchWord (s : State) (nbits w : Nat) : State :=
  s.issueNext (tableWord nbits w)

end Sys2Proof.Machine
end

