-- ==== Sys2Proof/Safety.lean ====
section
/-! DEFINITION. What claims about the machine are stated in: the invariant of a state, what the environment must answer
for an operation to go through, and the events a rule performs, written out from the rules of spec/40_mode_controller.md
and spec/42_command_sequences.md, not from the model's own sequences. -/

namespace Sys2Proof

/-- A good answer: the primitive succeeds, and a busy read shows HIGH (R108). -/
abbrev Answer.Good (a : Answer) : Prop := a.fails = false ∧ a.level = .high

/-- An answer by which a busy read shows LOW (R108). -/
abbrev Answer.Low (a : Answer) : Prop := a.fails = false ∧ a.level = .low

/-- The power levels of a module, in code order (R86). -/
def powerLevels : PowerTable → List Nat
  | .high => [30, 27, 24, 21]
  | .low => [20, 17, 14, 10]

/-- The canonical values of a ConfigurationRegister (R23, R82 to R86). -/
abbrev canonicalBaud (v : Nat) : Prop := v ∈ [1200, 2400, 4800, 9600, 19200, 38400, 57600, 115200]
abbrev canonicalAir (v : Nat) : Prop := v ∈ [300, 1200, 2400, 4800, 9600, 19200]
abbrev canonicalWake (v : Nat) : Prop := v ∈ [250, 500, 750, 1000, 1250, 1500, 1750, 2000]
abbrev canonicalPower (pt : PowerTable) (v : Nat) : Prop := v ∈ powerLevels pt

abbrev ConfigurationRegister.Canonical (pt : PowerTable) (c : ConfigurationRegister) : Prop :=
  canonicalBaud c.baud ∧ canonicalAir c.airRate ∧ canonicalWake c.wakeup ∧ canonicalPower pt c.power

/-- The place of a value in a list of values in code order, or 0 for a value not in it (R87). -/
def placeOf (l : List Nat) (v : Nat) : Nat := if v ∈ l then l.idxOf v else 0

/-- The parity code (R81). -/
def parityPlace : Parity → Nat
  | .none => 0
  | .odd => 1
  | .even => 2

/-- 1 for true, 0 for false (R84, R130). -/
def bitOf (b : Bool) : Nat := if b then 1 else 0

namespace Machine

/-- A wait of the given number of samples does not run into READY_TIMEOUT_MS: before its last sample less than the
timeout has been waited (R104, R106). With `READY_TIMEOUT_MS` = none, or with one sample, it always fits. -/
def waitFits (p : Params) (samples : Nat) : Bool :=
  decide (1 ≤ p.readySamples) &&
    (match p.readyTimeoutMs with
     | none => true
     | some t => decide (10 * (samples - 1) < t + 10))

/-- No operation is in progress. -/
abbrev State.IsIdle (s : State) : Prop := s.seq = Sequencer.idle

/-! Events. -/

def busyHigh (p : Params) : Event := ⟨.gpioRead p.pinBusy, .level .high⟩
def busyLow (p : Params) : Event := ⟨.gpioRead p.pinBusy, .level .low⟩
def delayed (ms : Nat) : Event := ⟨.delay ms, .ok⟩
def sent (p : Params) (bytes : List Byte) : Event := ⟨.serialWrite p.port bytes, .ok⟩
def received (p : Params) (f : Frame6) : Event := ⟨.serialRead p.port 6 20, .bytes f⟩
def readTimedOut (p : Params) : Event := ⟨.serialRead p.port 6 20, .timeout⟩

/-- n LOW samples, each followed by the poll delay (R104). -/
def lowRun (p : Params) : Nat → List Event
  | 0 => []
  | n + 1 => busyLow p :: delayed 10 :: lowRun p n

/-- k HIGH samples with the poll delay between them and the settle delay after the last (R104). -/
def highRun (p : Params) : Nat → List Event
  | 0 => []
  | 1 => [busyHigh p, delayed 20]
  | k + 2 => busyHigh p :: delayed 10 :: highRun p (k + 1)

/-- How many of the last samples showed HIGH: R104's count n after them. -/
def highsAtEnd (as : List Answer) : Nat :=
  (as.reverse.takeWhile (fun a => decide (a.level = .high))).length

/-- Samples after which a wait goes on (R104, R106): each is read, none completes the ready count, and at none has
READY_TIMEOUT_MS been waited. The (k + 1)-th sample is taken after k poll delays. -/
abbrev waitGoesOn (p : Params) (as : List Answer) : Prop :=
  (∀ a ∈ as, a.fails = false) ∧
    ∀ k < as.length, highsAtEnd (as.take (k + 1)) < p.readySamples ∧
      p.readyTimeoutMs.all (fun t => decide (10 * k < t)) = true

/-- A busy sample (R104). -/
def sampled (p : Params) (a : Answer) : Event := ⟨.gpioRead p.pinBusy, .level a.level⟩

/-- The events of such samples: each is followed by the poll delay (R104). -/
def sampleRun (p : Params) (as : List Answer) : List Event :=
  as.flatMap fun a => [sampled p a, delayed 10]

/-- What is left of READ_CFG (with `acceptCfg`) or READ_VER (with `acceptVer`) when it stands at its SerialRead (R160,
R164). -/
def restOfRead (p : Params) (accept : Action) : List Action :=
  [.receive, .giveUpEarly] ++ setModeLines p .normal ++ [accept, .resultOk]

/-- The settings of the port in a mode (R9, R101). -/
def portCfg (p : Params) (m : Mode) : SerialCfg :=
  ⟨if m = .program then 9600 else p.opBaud, 8, .none, 1, .none⟩

/-- The level of a bit. -/
def bitLevel (b : Bool) : Level := if b then .high else .low

/-- The events of WriteModeLines(m) (R102). -/
def lineEvents (p : Params) (m : Mode) : List Event :=
  let a := bitLevel (m = .powerSaving ∨ m = .program)
  let b := bitLevel (m = .wakeup ∨ m = .program)
  match p.modeWriteOrder with
  | .atomic => [⟨.gpioWriteBoth p.pinModeA a p.pinModeB b, .ok⟩]
  | .aThenB => [⟨.gpioWrite p.pinModeA a, .ok⟩, ⟨.gpioWrite p.pinModeB b, .ok⟩]
  | .bThenA => [⟨.gpioWrite p.pinModeB b, .ok⟩, ⟨.gpioWrite p.pinModeA a, .ok⟩]

/-- The events of ReconfigureSerial; the close is skipped when the port is not open (R103). -/
def portEvents (p : Params) (isOpen : Bool) (m : Mode) : List Event :=
  (if isOpen then [⟨.serialClose p.port, .ok⟩] else []) ++ [⟨.serialOpen p.port (portCfg p m), .ok⟩]

/-- The events of SET_MODE(m) when every busy read shows HIGH (R101): lines, wait, port. -/
def setModeEvents (p : Params) (isOpen : Bool) (m : Mode) : List Event :=
  lineEvents p m ++ highRun p p.readySamples ++ portEvents p isOpen m

/-- How many answers WriteModeLines takes (R102). -/
def lineCost (p : Params) : Nat :=
  match p.modeWriteOrder with
  | .atomic => 1
  | .aThenB => 2
  | .bThenA => 2

/-- How many answers such a SET_MODE takes. -/
def setModeCost (p : Params) (isOpen : Bool) : Nat :=
  lineCost p + p.readySamples + (if isOpen then 2 else 1)

/-- s with what a completed SET_MODE(m) leaves in the Mode Controller's state (R25, R26, R28, R101). -/
def State.inMode (s : State) (m : Mode) : State :=
  { s with
    mode := m
    lineA := bitLevel (m = .powerSaving ∨ m = .program)
    lineB := bitLevel (m = .wakeup ∨ m = .program)
    serialOpen := true
    serialCfg := some (portCfg s.params m) }

/-- s after the events ev, with rest the answers still to come, the result code v and no operation in progress. -/
def State.ended (s : State) (ev : List Event) (rest : List Answer) (v : Byte) : State :=
  { s with trace := s.trace ++ ev, answers := rest, result := v, seq := Sequencer.idle }

/-- The time an event is known to take at least, in milliseconds (R212, R250). -/
def Event.minMs (e : Event) : Nat :=
  match e.prim with
  | .delay ms => ms
  | _ => 0

/-- The least time the events of a trace take. -/
def minTime : List Event → Nat
  | [] => 0
  | e :: es => e.minMs + minTime es

/-- How many busy samples of a trace showed LOW. -/
def lowSamples : List Event → Nat
  | [] => 0
  | e :: es => (if e.reply = .level .low then 1 else 0) + lowSamples es

/-- In a list of events every SerialWrite happens while the port is open with Program's settings: `inProgram` says
whether it is when the events begin; a SerialOpen that succeeds opens it with its settings, and any other SerialOpen or
SerialClose ends that (R170, R240). -/
def sendsInProgram (p : Params) : Bool → List Event → Bool
  | _, [] => true
  | inProgram, e :: es =>
    match e.prim with
    | .serialOpen _ cfg => sendsInProgram p (decide (e.reply = .ok ∧ cfg = portCfg p .program)) es
    | .serialClose _ => sendsInProgram p false es
    | .serialWrite _ _ => inProgram && sendsInProgram p inProgram es
    | _ => sendsInProgram p inProgram es

/-- The same of lines of pseudocode that are still to run: every SerialWrite in them comes after the SerialOpen that ends a
SET_MODE(Program), with no other SerialOpen or SerialClose between, or, with `inProgram`, before any of these. -/
def sendsAfterProgram : Bool → List Action → Bool
  | _, [] => true
  | _, .openPort m :: todo => sendsAfterProgram (decide (m = .program)) todo
  | _, .closePort :: todo => sendsAfterProgram false todo
  | inProgram, .send _ :: todo => inProgram && sendsAfterProgram inProgram todo
  | inProgram, .sendCfgIn :: todo => inProgram && sendsAfterProgram inProgram todo
  | inProgram, _ :: todo => sendsAfterProgram inProgram todo

/-- The port is open with Program's settings. -/
def State.portInProgram (s : State) : Bool :=
  s.serialOpen && decide (s.serialCfg = some (portCfg s.params .program))

/-- What is left of the operation in progress sends only after a completed SET_MODE(Program) (R240): one that is still to
come, or one that has left the port as it is. -/
def State.SendsInProgram (s : State) : Prop := sendsAfterProgram s.portInProgram s.seq.todo = true

/-- A write of the mode-select lines (R102). -/
def Action.drivesLines : Action → Bool
  | .writeBoth _ => true
  | .writeA _ => true
  | .writeB _ => true
  | _ => false

/-! What an instruction leaves unchanged. -/

/-- The parameters, the registers the host writes and the host's coming moves. -/
abbrev SameOperands (s t : State) : Prop :=
  t.params = s.params ∧ t.cmd = s.cmd ∧ t.frameIn = s.frameIn ∧ t.cfgIn = s.cfgIn ∧ t.inputs = s.inputs ∧
    t.asked = s.asked

/-- The registers and caches that a configuration read writes. -/
abbrev SameCfg (s t : State) : Prop := t.cfgOut = s.cfgOut ∧ t.cfgCache = s.cfgCache

/-- The registers and caches that a version read writes. -/
abbrev SameVer (s t : State) : Prop := t.verOut = s.verOut ∧ t.verCache = s.verCache

/-- The Mode Controller's state but for the pins' directions. -/
abbrev SameLines (s t : State) : Prop := t.mode = s.mode ∧ t.lineA = s.lineA ∧ t.lineB = s.lineB

abbrev SamePort (s t : State) : Prop := t.serialOpen = s.serialOpen ∧ t.serialCfg = s.serialCfg

/-! The invariant. -/

/-- The pins are unconfigured or have the direction INITIALIZE gives them (R27). -/
abbrev GpioDir.Legal (d : GpioDir) : Prop :=
  (d.busy = .unconfigured ∨ d.busy = .input) ∧ (d.modeA = .unconfigured ∨ d.modeA = .output) ∧
    (d.modeB = .unconfigured ∨ d.modeB = .output)

/-- What every state keeps: at least one ready sample is asked for (R8); the pins' directions are legal (R27); the port's
settings, unless no value or left unspecified by a failed close or open (R28, R103), are 8N1 without flow control at 9600
or OP_BAUD (R9, R101); a cached register is one that decoding gives, so canonical (R29, R123). -/
structure State.Inv (s : State) : Prop where
  samples : 1 ≤ s.params.readySamples
  dirs    : s.gpioDir.Legal
  port    : s.serialCfg = none ∨ (∃ m, s.serialCfg = some (portCfg s.params m)) ∨
              ∃ n, n < s.draws ∧ s.serialCfg = Config.freeSerialCfg n
  cache   : ∀ c, s.cfgCache = some c → c.Canonical s.params.powerTable

/-- A step does not stop the machine. -/
def State.Safe (s : State) : Prop := ∃ t, step s = .next t

end Machine

end Sys2Proof
end

