-- ==== Sys2Proof/Certificates/Slice0/Obligations.lean ====
section
/-! DEFINITION. The statements for the provers, from the numbered rules of spec/. Where a statement rests on a choice of
the model's own, its docstring names the log entry. `Answer.Good`, `waitFits`, `setModeCost`, the event lists and the
other terms are defined in Sys2Proof/Safety.lean. -/

open Sys2Proof Sys2Proof.Machine

/-! ## Encoding -/

/-- Every instruction's encoded form decodes to it, with every operand (R70 to R76, R78). -/
def Obligations.DecodeOfEncodeGivesInstructionBack : Prop :=
  ∀ i : Instr, decode (encode i) = .ok i

/-- A word in its place has one meaning: the instruction it decodes to encodes to it (R70 to R76, R78). -/
def Obligations.EncodeOfDecodeGivesWordBack : Prop :=
  ∀ (w : FetchWord) (i : Instr), decode w = .ok i → encode i = w

/-- R89 and R207: which CMD words are illegal, and that an illegal one writes RESULT <- ILLEGAL_OP and nothing else. That a
step takes the host's move, and that CMD then holds the word though it is illegal (R20, R24), is the model's choice (log
entry 1), which reads R207's "no other state changes" as said of the block. -/
def Obligations.IllegalCommandIsRefused : Prop :=
  ∀ w : Word,
    let illegal : Prop :=
      w.toNat % 256 = 0 ∨ 0x0B ≤ w.toNat % 256 ∨ w.toNat / 1024 ≠ 0 ∨ (w.toNat % 256 ≠ 1 ∧ w.toNat / 256 % 4 ≠ 0)
    (illegal ↔ ∀ i, decode (.cmd w) ≠ .ok i) ∧
    (illegal → ∀ (s : State) (rest : List HostMove), s.IsIdle → s.inputs = .issue (.cmd w) :: rest →
      step s = .next { s with inputs := rest, cmd := w, result := 0x05#8 })

/-- Words written out from R70 to R76, R78 and opcode_table.json. -/
def Obligations.SampleWordsDecode : Prop :=
  decode (.cmd 0x0001#16) = .ok (.setMode .normal) ∧
  decode (.cmd 0x0301#16) = .ok (.setMode .program) ∧
  decode (.cmd 0x0002#16) = .ok .waitReady ∧
  decode (.cmd 0x0004#16) = .ok .encodeCfg ∧
  decode (.cmd 0x000A#16) = .ok .initBlock ∧
  decode (.lines 0b10#2) = .ok .modePowerSaving ∧
  decode (.tx [0xC4#8, 0xC4#8, 0xC4#8]) = .ok .wireReset ∧
  decode (.tx [0xC2#8, 0x12#8, 0x34#8, 0x9A#8, 0x06#8, 0x9A#8]) =
    .ok (.wireWriteVolatile ⟨0x1234#16, 0b10#2, 0b011#3, 0b010#3, 0x06#8, true, false, 0b011#3, false, 0b10#2⟩) ∧
  decode (.rx ⟨0xC3#8, 0x01#8, 0x02#8, 0x03#8, 0x00#8, 0x00#8⟩) =
    .ok (.wireVersionResponse ⟨0x01#8, 0x02#8, 0x03#8, 0x00#8, 0x00#8⟩)

/-- R72: the code, the two line levels and the serial baud of each mode; each of the four codes is legal. That 1 is
HIGH is the spec's general knowledge (G2, log entry 16). -/
def Obligations.ModeCodesAndLevels : Prop :=
  (∀ m : Mode, decode (.cmd (0#6 ++ m.code ++ 0x01#8)) = .ok (.setMode m)) ∧
  (Mode.normal.code = 0b00#2 ∧ Mode.normal.levelA = .low ∧ Mode.normal.levelB = .low) ∧
  (Mode.wakeup.code = 0b01#2 ∧ Mode.wakeup.levelA = .low ∧ Mode.wakeup.levelB = .high) ∧
  (Mode.powerSaving.code = 0b10#2 ∧ Mode.powerSaving.levelA = .high ∧ Mode.powerSaving.levelB = .low) ∧
  (Mode.program.code = 0b11#2 ∧ Mode.program.levelA = .high ∧ Mode.program.levelB = .high) ∧
  (∀ c : BitVec 2, (Mode.ofCode c).code = c ∧ ∃ i, decode (.lines c) = .ok i ∧ encode i = .lines c) ∧
  (∀ (p : Params) (m : Mode), (serialCfgOf p m).baud = if m = .program then 9600 else p.opBaud)

/-! ## The step, and reset -/

/-- R20, R24: with no operation in progress, the host's next move a word, and the word an instruction, the step is exec of
that instruction, with the move taken and, for a command, CMD written. One move a step is the model's choice (log entry
1), and so are the words on the lines and the wire, which the spec's host has no move for (log entry 9): one of those is
run with no operation in progress, and also where an operation stands before it: a code at its line writes, a frame at its
SerialWrite, a response at the SerialRead. -/
def Obligations.StepRunsDecodedInstruction : Prop :=
  ∀ (s : State) (w : FetchWord) (rest : List HostMove) (i : Instr),
    s.inputs = .issue w :: rest → decode w = .ok i →
    (s.seq.todo = [] → (∀ c, w = .cmd c → step s = exec i { s with inputs := rest, cmd := c }) ∧
      ((∀ c, w ≠ .cmd c) → step s = exec i { s with inputs := rest })) ∧
    (∀ a todo, s.seq.todo = a :: todo → a.standsAt s w = true → step s = exec i { s with inputs := rest })

/-- What else a step takes up: nothing (R231), an operand load (R91; log entry 1), the operation in progress, which goes on
with the answers State lists or, where it lists none, with one of the oracle (log entry 6), whatever the next move is if the
operation does not stand before it, or the bytes that arrive for the SerialRead an operation stands at, whatever their
header (R161; log entry 9). What an operation stands before is never a command. -/
def Obligations.StepWaitsLoadsAndGoesOn : Prop :=
  (∀ s : State, s.seq.todo = [] → s.inputs = [] → step s = .next s) ∧
  (∀ (s : State) (f : Frame6) (rest : List HostMove), s.seq.todo = [] → s.inputs = .loadFrameIn f :: rest →
    step s = .next { s with inputs := rest, frameIn := f }) ∧
  (∀ (s : State) (c : ConfigurationRegister) (rest : List HostMove), s.seq.todo = [] →
    s.inputs = .loadCfgIn c :: rest → step s = .next { s with inputs := rest, cfgIn := c }) ∧
  (∀ s : State, s.seq.todo ≠ [] → s.awaited = none → s.answers ≠ [] →
    step s = .next (conclude s.seq.wrap (runSeq s.seq.todo s))) ∧
  (∀ s : State, s.seq.todo ≠ [] → s.awaited = none → s.answers = [] →
    step s = .next (conclude s.seq.wrap
      (runSeq s.seq.todo { s with answers := [Config.oracle s.asked], asked := s.asked + 1 }))) ∧
  (∀ (s : State) (f : Frame6) (todo : List Action) (rest : List HostMove),
    s.seq.todo = .receive :: todo → s.inputs = .issue (.rx f) :: rest →
    step s = .next (conclude s.seq.wrap (runSeq todo
      { s with
        inputs := rest, trace := s.trace ++ [received s.params f], seq := ⟨s.seq.todo, s.seq.wrap, .bytes f⟩ }))) ∧
  (∀ (s : State) (w : FetchWord), s.awaited = some w → ∀ c, w ≠ .cmd c)

/-- R31, R230, R231: the reset values the spec gives, for a block with any parameters; no event has been performed and
none is under way. -/
def Obligations.ResetStateOfSpec : Prop :=
  ∀ p : Params,
    (State.resetWith p).mode = .normal ∧
    (State.resetWith p).gpioDir = ⟨.unconfigured, .unconfigured, .unconfigured⟩ ∧
    (State.resetWith p).serialOpen = false ∧ (State.resetWith p).serialCfg = none ∧
    (State.resetWith p).cfgCache = none ∧ (State.resetWith p).verCache = none ∧
    (State.resetWith p).trace = [] ∧ (State.resetWith p).IsIdle ∧
    step (State.resetWith p) = .next (State.resetWith p)

/-! ## The register codec -/

/-- R121: DECODE_CFG of a frame with a valid header reads every field from its place; CFG_OUT and RESULT are written
and nothing else. The codes of the tables are the spec's general knowledge (G3 to G5, log entry 16). -/
def Obligations.DecodeCfgReadsEveryField : Prop :=
  ∀ s : State, s.frameIn.b0 = 0xC0#8 ∨ s.frameIn.b0 = 0xC2#8 →
    exec .decodeCfg s = .next { s with
      cfgOut :=
        { persistent := decide (s.frameIn.b0 = 0xC0#8)
          address := BitVec.ofNat 16 (256 * s.frameIn.b1.toNat + s.frameIn.b2.toNat)
          parity := [Parity.none, .odd, .even, .none].getD (s.frameIn.b3.toNat / 64) .none
          baud := [1200, 2400, 4800, 9600, 19200, 38400, 57600, 115200].getD (s.frameIn.b3.toNat / 8 % 8) 0
          airRate := [300, 1200, 2400, 4800, 9600, 19200, 19200, 19200].getD (s.frameIn.b3.toNat % 8) 0
          channel := s.frameIn.b4
          fixed := decide (s.frameIn.b5.toNat / 128 = 1)
          pullup := decide (s.frameIn.b5.toNat / 64 % 2 = 1)
          wakeup := 250 * (s.frameIn.b5.toNat / 8 % 8 + 1)
          fec := decide (s.frameIn.b5.toNat / 4 % 2 = 1)
          power := (powerLevels s.params.powerTable).getD (s.frameIn.b5.toNat % 4) 0 }
      result := 0x00#8
      seq := Sequencer.idle }

/-- R122: any other header is a ProtocolError that records the header byte; no field is decoded and no output register
is written. -/
def Obligations.DecodeCfgRejectsOtherHeaders : Prop :=
  ∀ s : State, s.frameIn.b0 ≠ 0xC0#8 → s.frameIn.b0 ≠ 0xC2#8 →
    exec .decodeCfg s = .next { s with result := 0x04#8, errInfo := s.frameIn.b0, seq := Sequencer.idle }

/-- R130 (with R81 to R87): ENCODE_CFG of any register puts every field in its place, a value outside its table as
zeros; FRAME_OUT and RESULT are written and nothing else. It never raises. The codes of the tables are the spec's
general knowledge (G3 to G5, log entry 16). -/
def Obligations.EncodeCfgPlacesEveryField : Prop :=
  decode (.cmd 0x0004#16) = .ok .encodeCfg ∧
  ∀ s : State,
    exec .encodeCfg s = .next { s with
      frameOut :=
        { b0 := if s.cfgIn.persistent then 0xC0#8 else 0xC2#8
          b1 := BitVec.ofNat 8 (s.cfgIn.address.toNat / 256)
          b2 := BitVec.ofNat 8 (s.cfgIn.address.toNat % 256)
          b3 := BitVec.ofNat 8 (64 * parityPlace s.cfgIn.parity
            + 8 * placeOf [1200, 2400, 4800, 9600, 19200, 38400, 57600, 115200] s.cfgIn.baud
            + placeOf [300, 1200, 2400, 4800, 9600, 19200] s.cfgIn.airRate)
          b4 := s.cfgIn.channel
          b5 := BitVec.ofNat 8 (128 * bitOf s.cfgIn.fixed + 64 * bitOf s.cfgIn.pullup
            + 8 * placeOf [250, 500, 750, 1000, 1250, 1500, 1750, 2000] s.cfgIn.wakeup
            + 4 * bitOf s.cfgIn.fec + placeOf (powerLevels s.params.powerTable) s.cfgIn.power) }
      result := 0x00#8
      seq := Sequencer.idle }

/-- R140, R88: DECODE_VER takes model, version and features from bytes 1, 2 and 3 and reads neither byte 4 nor byte 5; a
header other than C3 is a ProtocolError that records it and leaves VER_OUT. VER_CACHE is not written. -/
def Obligations.DecodeVerReadsBytes : Prop :=
  decode (.cmd 0x0005#16) = .ok .decodeVer ∧
  ∀ s : State,
    (s.frameIn.b0 = 0xC3#8 → exec .decodeVer s = .next { s with
      verOut := ⟨s.frameIn.b1, s.frameIn.b2, s.frameIn.b3⟩, result := 0x00#8, seq := Sequencer.idle }) ∧
    (s.frameIn.b0 ≠ 0xC3#8 → exec .decodeVer s = .next { s with
      result := 0x04#8, errInfo := s.frameIn.b0, seq := Sequencer.idle })

/-- R123: once the header is valid, decoding is total over bytes 1 to 5 and gives a canonical register. -/
def Obligations.DecodeIsPermissive : Prop :=
  ∀ (pt : PowerTable) (f : Frame6), f.b0 = 0xC0#8 ∨ f.b0 = 0xC2#8 →
    ∃ c, decodeCfgFrame pt f = .ok c ∧ c.Canonical pt

/-- R131: encoding emits canonical codes only, never parity 0b11 and never air rate 0b110 or 0b111: what it emits is
a well-formed write frame. No register is turned away. The spec marks this as derived from its other rules. -/
def Obligations.EncodeEmitsCanonicalFrames : Prop :=
  ∀ (pt : PowerTable) (c : ConfigurationRegister),
    (encodeCfgFrame pt c).b3.toNat / 64 ≠ 3 ∧
    (encodeCfgFrame pt c).b3.toNat % 8 ≠ 6 ∧ (encodeCfgFrame pt c).b3.toNat % 8 ≠ 7 ∧
    ∃ i : Instr, decode (.tx (encodeCfgFrame pt c).bytes) = .ok i ∧ i.wellFormed = true

/-- R150: encoding what a frame decodes to gives the frame back exactly when its parity and air codes are canonical;
otherwise it differs in byte 3 only, parity 0b11 turned to 0b00 and air 0b110 or 0b111 to 0b101. The spec marks this
as derived from its other rules. -/
def Obligations.EncodeAfterDecode : Prop :=
  ∀ (pt : PowerTable) (f : Frame6), f.b0 = 0xC0#8 ∨ f.b0 = 0xC2#8 →
    ∃ c, decodeCfgFrame pt f = .ok c ∧
      (encodeCfgFrame pt c = f ↔ f.b3.toNat / 64 ≠ 3 ∧ f.b3.toNat % 8 ≠ 6 ∧ f.b3.toNat % 8 ≠ 7) ∧
      encodeCfgFrame pt c = { f with
        b3 := BitVec.ofNat 8 (64 * (if f.b3.toNat / 64 = 3 then 0 else f.b3.toNat / 64)
          + 8 * (f.b3.toNat / 8 % 8) + (if 6 ≤ f.b3.toNat % 8 then 5 else f.b3.toNat % 8)) }

/-- R151: decoding what a register encodes to gives the register back exactly when its four numeric fields are
canonical; otherwise each field that is not comes back as its code-0 value and every other field unchanged. The spec
marks this as derived from its other rules. -/
def Obligations.DecodeAfterEncode : Prop :=
  ∀ (pt : PowerTable) (c : ConfigurationRegister),
    (decodeCfgFrame pt (encodeCfgFrame pt c) = .ok c ↔ c.Canonical pt) ∧
    decodeCfgFrame pt (encodeCfgFrame pt c) = .ok { c with
      baud := if canonicalBaud c.baud then c.baud else 1200
      airRate := if canonicalAir c.airRate then c.airRate else 300
      wakeup := if canonicalWake c.wakeup then c.wakeup else 250
      power := if canonicalPower pt c.power then c.power else (powerLevels pt).getD 0 0 }

/-- R152: what a frame decodes to is canonical and decodes back to itself. The spec marks this as derived from its
other rules. -/
def Obligations.DecodedRegisterIsStable : Prop :=
  ∀ (pt : PowerTable) (f : Frame6) (c : ConfigurationRegister), decodeCfgFrame pt f = .ok c →
    c.Canonical pt ∧ decodeCfgFrame pt (encodeCfgFrame pt c) = .ok c

/-! ## The mode controller -/

/-- R101, R25, R26, R28: SET_MODE with good answers runs to its end: the lines, the wait, the port reopened at the mode's
baud, in that order; nothing else changes. -/
def Obligations.SetModeCompletes : Prop :=
  ∀ (m : Mode) (s : State) (pre rest : List Answer),
    waitFits s.params s.params.readySamples = true →
    s.answers = pre ++ rest → pre.length = setModeCost s.params s.serialOpen → (∀ a ∈ pre, a.Good) →
    exec (.setMode m) s = .next ((s.inMode m).ended (setModeEvents s.params s.serialOpen m) rest 0x00#8)

/-- R72, R102: each of the four codes is driven onto the two lines by the SET_MODE that stands before its line writes, in the
order MODE_WRITE_ORDER gives, and the SET_MODE then stands before MODE_STATE <- m; nothing else changes. After the first of
two writes the code is the second one alone; a write that fails ends the operation with IoError, the line it wrote, or both
lines, left unspecified. With no such write to come the code drives nothing (R240). That a code is a word of its own is the
model's choice (log entry 9), and so is the answer of the oracle where none is listed (log entry 6). -/
def Obligations.ModeCodesDriveTheLines : Prop :=
  ∀ x ∈ [(Instr.modeNormal, Mode.normal, Level.low, Level.low), (.modeWakeup, .wakeup, .low, .high),
      (.modePowerSaving, .powerSaving, .high, .low), (.modeProgram, .program, .high, .high)],
    let (i, m, a, b) := x
    (∀ (s : State) (pre rest : List Answer) (todo : List Action),
      s.seq.todo = writeModeLines s.params m ++ .commitMode m :: todo →
      s.answers = pre ++ rest → pre.length = lineCost s.params → (∀ y ∈ pre, y.fails = false) →
      exec i s = .next { s with
        lineA := a, lineB := b, answers := rest, trace := s.trace ++ lineEvents s.params m,
        seq := ⟨.commitMode m :: todo, s.seq.wrap, s.seq.held⟩ }) ∧
    (∀ (s : State) (y : Answer) (rest : List Answer) (todo : List Action), s.answers = y :: rest → y.fails = false →
      (s.seq.todo = .writeA m :: .commitMode m :: todo → exec i s = .next { s with
        lineA := a, answers := rest, trace := s.trace ++ [⟨.gpioWrite s.params.pinModeA a, .ok⟩],
        seq := ⟨.commitMode m :: todo, s.seq.wrap, s.seq.held⟩ }) ∧
      (s.seq.todo = .writeB m :: .commitMode m :: todo → exec i s = .next { s with
        lineB := b, answers := rest, trace := s.trace ++ [⟨.gpioWrite s.params.pinModeB b, .ok⟩],
        seq := ⟨.commitMode m :: todo, s.seq.wrap, s.seq.held⟩ })) ∧
    (∀ (s : State) (y : Answer) (rest : List Answer) (todo : List Action), s.answers = y :: rest → y.fails = true →
      (s.seq.todo = .writeBoth m :: todo → exec i s = .next (State.raise
        { s with
          lineA := Config.freeLevel s.draws, lineB := Config.freeLevel (s.draws + 1), draws := s.draws + 2
          answers := rest
          trace := s.trace ++ [⟨.gpioWriteBoth s.params.pinModeA a s.params.pinModeB b, .ioError⟩] } s.seq.wrap .io)) ∧
      (s.seq.todo = .writeA m :: todo → exec i s = .next (State.raise
        { s with
          lineA := Config.freeLevel s.draws, draws := s.draws + 1, answers := rest
          trace := s.trace ++ [⟨.gpioWrite s.params.pinModeA a, .ioError⟩] } s.seq.wrap .io)) ∧
      (s.seq.todo = .writeB m :: todo → exec i s = .next (State.raise
        { s with
          lineB := Config.freeLevel s.draws, draws := s.draws + 1, answers := rest
          trace := s.trace ++ [⟨.gpioWrite s.params.pinModeB b, .ioError⟩] } s.seq.wrap .io))) ∧
    (∀ (s : State) (c : Action) (todo : List Action), s.seq.todo = c :: todo →
      c ∈ [.writeBoth m, .writeA m, .writeB m] → s.answers = [] → exec i s = exec i { s with answers := [Config.oracle s.asked], asked := s.asked + 1 }) ∧
    (∀ s : State, (∀ c todo, s.seq.todo = c :: todo → c ∉ [.writeBoth m, .writeA m, .writeB m]) → exec i s = .next s)

/-- R102: a line write of SET_MODE that fails ends it with IO_ERROR and leaves that line's level unspecified (a free
value, log entry 7), under `atomic` both; a line written before keeps its new level; MODE_STATE is unchanged. -/
def Obligations.FailedLineWrite : Prop :=
  ∀ (m : Mode) (s : State) (a : Answer) (rest : List Answer), s.answers = a :: rest →
    (a.fails = true → s.params.modeWriteOrder = .atomic →
      exec (.setMode m) s = .next (State.ended
        { s with lineA := Config.freeLevel s.draws, lineB := Config.freeLevel (s.draws + 1), draws := s.draws + 2 }
        [⟨.gpioWriteBoth s.params.pinModeA m.levelA s.params.pinModeB m.levelB, .ioError⟩] rest 0x01#8)) ∧
    (a.fails = true → s.params.modeWriteOrder = .aThenB →
      exec (.setMode m) s = .next (State.ended
        { s with lineA := Config.freeLevel s.draws, draws := s.draws + 1 }
        [⟨.gpioWrite s.params.pinModeA m.levelA, .ioError⟩] rest 0x01#8)) ∧
    (a.fails = true → s.params.modeWriteOrder = .bThenA →
      exec (.setMode m) s = .next (State.ended
        { s with lineB := Config.freeLevel s.draws, draws := s.draws + 1 }
        [⟨.gpioWrite s.params.pinModeB m.levelB, .ioError⟩] rest 0x01#8)) ∧
    (∀ (b : Answer) (rest' : List Answer), a.fails = false → rest = b :: rest' → b.fails = true →
      s.params.modeWriteOrder = .aThenB →
      exec (.setMode m) s = .next (State.ended
        { s with lineA := m.levelA, lineB := Config.freeLevel s.draws, draws := s.draws + 1 }
        [⟨.gpioWrite s.params.pinModeA m.levelA, .ok⟩, ⟨.gpioWrite s.params.pinModeB m.levelB, .ioError⟩]
        rest' 0x01#8)) ∧
    (∀ (b : Answer) (rest' : List Answer), a.fails = false → rest = b :: rest' → b.fails = true →
      s.params.modeWriteOrder = .bThenA →
      exec (.setMode m) s = .next (State.ended
        { s with lineB := m.levelB, lineA := Config.freeLevel s.draws, draws := s.draws + 1 }
        [⟨.gpioWrite s.params.pinModeB m.levelB, .ok⟩, ⟨.gpioWrite s.params.pinModeA m.levelA, .ioError⟩]
        rest' 0x01#8))

/-- R103, R202: a close or open of SET_MODE that fails ends it with IO_ERROR; the lines and MODE_STATE keep what they were
given, SERIAL_OPEN and SERIAL_CFG are left unspecified (free values, log entry 7). The close is tried only on an open
port. -/
def Obligations.FailedPortReopen : Prop :=
  ∀ (m : Mode) (s : State) (pre rest : List Answer) (x : Answer),
    waitFits s.params s.params.readySamples = true →
    pre.length = lineCost s.params + s.params.readySamples → (∀ a ∈ pre, a.Good) → x.fails = true →
    let ev := lineEvents s.params m ++ highRun s.params s.params.readySamples
    let after : State := { s.inMode m with
      serialOpen := Config.freeSerialOpen s.draws, serialCfg := Config.freeSerialCfg s.draws, draws := s.draws + 1 }
    (s.serialOpen = true → s.answers = pre ++ [x] ++ rest →
      exec (.setMode m) s =
        .next (after.ended (ev ++ [⟨.serialClose s.params.port, .ioError⟩]) rest 0x01#8)) ∧
    (∀ c : Answer, c.fails = false → s.serialOpen = true → s.answers = pre ++ [c, x] ++ rest →
      exec (.setMode m) s =
        .next (after.ended (ev ++ [⟨.serialClose s.params.port, .ok⟩,
          ⟨.serialOpen s.params.port (portCfg s.params m), .ioError⟩]) rest 0x01#8)) ∧
    (s.serialOpen = false → s.answers = pre ++ [x] ++ rest →
      exec (.setMode m) s =
        .next (after.ended (ev ++ [⟨.serialOpen s.params.port (portCfg s.params m), .ioError⟩]) rest 0x01#8))

/-- R101 (d), (e), R202, R106: when the wait of SET_MODE ends in an error, by a busy read that fails or by the timeout,
after any samples that left it going on, the lines and MODE_STATE keep what they were given and the port keeps its old
configuration. -/
def Obligations.FailedWaitKeepsLinesAndPort : Prop :=
  ∀ (m : Mode) (s : State) (pre ws rest : List Answer) (x : Answer),
    pre.length = lineCost s.params → (∀ a ∈ pre, a.fails = false) → waitGoesOn s.params ws →
    s.answers = pre ++ ws ++ [x] ++ rest →
    let after : State := { s.inMode m with serialOpen := s.serialOpen, serialCfg := s.serialCfg }
    let ev : List Event := lineEvents s.params m ++ sampleRun s.params ws
    (x.fails = true → exec (.setMode m) s =
      .next (after.ended (ev ++ [⟨.gpioRead s.params.pinBusy, .ioError⟩]) rest 0x01#8)) ∧
    (∀ t, x.fails = false → highsAtEnd (ws ++ [x]) < s.params.readySamples → s.params.readyTimeoutMs = some t →
      t ≤ 10 * ws.length →
      exec (.setMode m) s = .next (after.ended (ev ++ [sampled s.params x]) rest 0x03#8))

/-- R104, R106: WAIT_READY ends with OK at the sample that completes the ready count, whatever samples left it going on
before, and whether or not READY_TIMEOUT_MS has then been waited; so with LOW samples and then READY_SAMPLES HIGH ones, as
long as the wait does not expire. Each sample before the last is followed by the poll delay and the last by the settle
delay; only RESULT is written. -/
def Obligations.WaitReadyCompletes : Prop :=
  (∀ (s : State) (ws rest : List Answer) (x : Answer),
    1 ≤ s.params.readySamples → waitGoesOn s.params ws → x.fails = false →
    s.params.readySamples ≤ highsAtEnd (ws ++ [x]) → s.answers = ws ++ [x] ++ rest →
    exec .waitReady s = .next (s.ended (sampleRun s.params ws ++ [busyHigh s.params, delayed 20]) rest 0x00#8)) ∧
  (∀ (s : State) (lows highs rest : List Answer),
    waitFits s.params (lows.length + highs.length) = true → s.answers = lows ++ highs ++ rest →
    (∀ a ∈ lows, a.Low) → (∀ a ∈ highs, a.Good) → highs.length = s.params.readySamples →
    exec .waitReady s =
      .next (s.ended (lowRun s.params lows.length ++ highRun s.params highs.length) rest 0x00#8))

/-- R104, R106: the loop, one sample at a time. A wait that stands before a sample, in WAIT_READY or in any operation that
calls it, takes the sample's answer: an IoError ends the operation; a sample that completes the count is followed by the
settle delay and the rest of the operation, whether or not the wait has expired; a sample that does not raises
TimeoutError(READY) when the wait has expired, and else is followed by the poll delay and the next sample. A LOW sample
sets the count back to 0. -/
def Obligations.WaitTakesOneSample : Prop :=
  ∀ (s : State) (n waited : Nat) (todo : List Action) (a : Answer),
    s.seq.todo = .poll n waited :: todo → s.answers = [a] →
    let n' := if a.level = .high then n + 1 else 0
    let sample : Event := ⟨.gpioRead s.params.pinBusy, .level a.level⟩
    let expired : Prop := ∃ t, s.params.readyTimeoutMs = some t ∧ t ≤ waited
    (a.fails = true → step s = .next (State.raise
      { s with answers := [], trace := s.trace ++ [⟨.gpioRead s.params.pinBusy, .ioError⟩] } s.seq.wrap .io)) ∧
    (a.fails = false → s.params.readySamples ≤ n' → step s = .next (conclude s.seq.wrap (runSeq todo
      { s with answers := [], trace := s.trace ++ [sample, delayed 20] }))) ∧
    (a.fails = false → n' < s.params.readySamples → expired → step s = .next (State.raise
      { s with answers := [], trace := s.trace ++ [sample] } s.seq.wrap .timeoutReady)) ∧
    (a.fails = false → n' < s.params.readySamples → ¬ expired → step s = .next
      { s with
        answers := [], trace := s.trace ++ [sample, delayed 10],
        seq := ⟨.poll n' (waited + 10) :: todo, s.seq.wrap, s.seq.held⟩ })

/-- R106: with READY_TIMEOUT_MS = T, WAIT_READY raises TimeoutError(READY) at the first sample that does not complete the
ready count when T or more has been waited. -/
def Obligations.WaitReadyExpires : Prop :=
  ∀ (s : State) (t : Nat) (ws rest : List Answer) (x : Answer),
    waitGoesOn s.params ws → s.params.readyTimeoutMs = some t → s.answers = ws ++ [x] ++ rest → x.fails = false →
    highsAtEnd (ws ++ [x]) < s.params.readySamples → t ≤ 10 * ws.length →
    exec .waitReady s = .next (s.ended (sampleRun s.params ws ++ [sampled s.params x]) rest 0x03#8)

/-- R105: with no timeout, a wait whose samples are all LOW goes on, however many there are. Each operation that calls
the wait stands, after its lines and any LOW samples, before the next sample of its first wait, with no RESULT written; an
operation that stands in a wait, its first or a later one, stands in it again after a step whose samples are LOW; a sample
that State does not list is the oracle's and is taken like a listed one; and from any state that stands in a wait there is
an infinite execution, one LOW sample a step. That a step stands where the answers end, and the oracle, are the model's
choices (log entries 6 and 12). -/
def Obligations.HangIsKept : Prop :=
  (∀ s : State, 1 ≤ s.params.readySamples → s.params.readyTimeoutMs = none → (∀ a ∈ s.answers, a.Low) →
    exec .waitReady s = .next { s with
      answers := [], trace := s.trace ++ lowRun s.params s.answers.length,
      seq := ⟨[.poll 0 (10 * s.answers.length), .resultOk], false, .nothing⟩ }) ∧
  (∀ (s : State) (pre lows : List Answer), 1 ≤ s.params.readySamples → s.params.readyTimeoutMs = none →
    s.answers = pre ++ lows → pre.length = lineCost s.params → (∀ a ∈ pre, a.fails = false) → (∀ a ∈ lows, a.Low) →
    ∀ x ∈ [(Instr.setMode .normal, Mode.normal), (.setMode .wakeup, .wakeup), (.setMode .powerSaving, .powerSaving),
        (.setMode .program, .program), (.readCfg, .program), (.readVer, .program), (.writeCfg, .program),
        (.resetModule, .program)],
      ∃ todo, exec x.1 s = .next { s.inMode x.2 with
        serialOpen := s.serialOpen, serialCfg := s.serialCfg,
        answers := [], trace := s.trace ++ lineEvents s.params x.2 ++ lowRun s.params lows.length,
        seq := ⟨.poll 0 (10 * lows.length) :: .closePort :: .openPort x.2 :: todo, false, .nothing⟩ }) ∧
  (∀ (s : State) (d₁ d₂ d₃ : Answer) (pre lows : List Answer), 1 ≤ s.params.readySamples →
    s.params.readyTimeoutMs = none → s.answers = [d₁, d₂, d₃] ++ pre ++ lows → (∀ d ∈ [d₁, d₂, d₃], d.fails = false) →
    pre.length = lineCost s.params → (∀ a ∈ pre, a.fails = false) → (∀ a ∈ lows, a.Low) →
    ∃ todo, exec .initBlock s = .next { s.inMode .normal with
      gpioDir := ⟨.input, .output, .output⟩
      serialOpen := s.serialOpen, serialCfg := s.serialCfg, answers := []
      trace := s.trace ++ [⟨.gpioSetDir s.params.pinBusy .input, .ok⟩, ⟨.gpioSetDir s.params.pinModeA .output, .ok⟩,
        ⟨.gpioSetDir s.params.pinModeB .output, .ok⟩] ++ lineEvents s.params .normal ++ lowRun s.params lows.length
      seq := ⟨.poll 0 (10 * lows.length) :: .closePort :: .openPort .normal :: todo, true, .nothing⟩ }) ∧
  (∀ (s : State) (n waited : Nat) (todo : List Action), 1 ≤ s.params.readySamples → s.params.readyTimeoutMs = none →
    s.seq.todo = .poll n waited :: todo → s.answers ≠ [] → (∀ a ∈ s.answers, a.Low) →
    step s = .next { s with
      answers := [], trace := s.trace ++ lowRun s.params s.answers.length,
      seq := ⟨.poll 0 (waited + 10 * s.answers.length) :: todo, s.seq.wrap, s.seq.held⟩ }) ∧
  (∀ (s : State) (n waited : Nat) (todo : List Action), s.seq.todo = .poll n waited :: todo → s.answers = [] →
    step s = step { s with answers := [Config.oracle s.asked], asked := s.asked + 1 }) ∧
  (∀ (s : State) (n waited : Nat) (todo : List Action) (low : Nat → Answer), 1 ≤ s.params.readySamples →
    s.params.readyTimeoutMs = none → s.seq.todo = .poll n waited :: todo → (∀ k, (low k).Low) →
    ∃ run : Nat → State, run 0 = s ∧ ∀ k, step { run k with answers := [low k] } = .next (run (k + 1)) ∧
      (run k).result = s.result ∧ ∃ n', (run k).seq.todo = .poll n' (waited + 10 * k) :: todo)

/-- R107: for every sequence of answers, WAIT_READY returns OK only with READY_SAMPLES consecutive HIGH samples as
its last, a poll interval between two of them, and the settle delay after. The spec marks this as derived from its
other rules. -/
def Obligations.WaitReturnsOnlyAfterReady : Prop :=
  ∀ s t : State, 1 ≤ s.params.readySamples → exec .waitReady s = .next t → t.IsIdle → t.result = 0x00#8 →
    ∃ ev, t.trace = s.trace ++ ev ++ highRun s.params s.params.readySamples

/-- R24, R25, R27 to R29, R101, R104: what the Mode Controller's operations leave unchanged, whatever the environment
answers; and the same of the four codes and the five frames to send, which are words of their own by the model's choice (log
entry 9). Those take an answer of the oracle where none is listed (`asked`, log entry 6). -/
def Obligations.ControllerFrame : Prop :=
  ∀ s t : State,
    (∀ m, exec (.setMode m) s = .next t → SameOperands s t ∧ SameCfg s t ∧ SameVer s t ∧
      t.frameOut = s.frameOut ∧ t.errInfo = s.errInfo ∧ t.gpioDir = s.gpioDir ∧ (t.mode = s.mode ∨ t.mode = m)) ∧
    (exec .waitReady s = .next t → SameOperands s t ∧ SameCfg s t ∧ SameVer s t ∧
      t.frameOut = s.frameOut ∧ t.errInfo = s.errInfo ∧ t.gpioDir = s.gpioDir ∧ SameLines s t ∧ SamePort s t ∧
      t.draws = s.draws) ∧
    (∀ i ∈ [Instr.modeNormal, .modeWakeup, .modePowerSaving, .modeProgram], exec i s = .next t →
      SameOperands { s with asked := t.asked } t ∧ SameCfg s t ∧ SameVer s t ∧
      t.frameOut = s.frameOut ∧ t.errInfo = s.errInfo ∧ t.gpioDir = s.gpioDir ∧ t.mode = s.mode ∧ SamePort s t) ∧
    (∀ c, ∀ i ∈ [Instr.wireReadParams, .wireReadVersion, .wireReset, .wireWritePersist c, .wireWriteVolatile c],
      exec i s = .next t → SameOperands { s with asked := t.asked } t ∧ SameCfg s t ∧ SameVer s t ∧
      t.frameOut = s.frameOut ∧ t.errInfo = s.errInfo ∧ t.gpioDir = s.gpioDir ∧ SameLines s t ∧ SamePort s t ∧
      t.draws = s.draws)

/-- R100: SET_MODE does the same whatever mode it starts from: from another mode it comes to the same state but for
MODE_STATE, and to the same MODE_STATE too once it has ended with OK. The spec marks this as derived from its other
rules. -/
def Obligations.SetModeIgnoresTheOldMode : Prop :=
  ∀ (m m₀ : Mode) (s t : State), exec (.setMode m) s = .next t →
    ∃ x, exec (.setMode m) { s with mode := m₀ } = .next { t with mode := x } ∧
      (t.IsIdle → t.result = 0x00#8 → x = t.mode ∧ t.mode = m)

/-! ## The command sequences -/

/-- R160: READ_CFG with good answers and a response with a valid header: the register is in CFG_OUT and CFG_CACHE, and the
block is back in Normal. -/
def Obligations.ReadCfgCompletes : Prop :=
  ∀ (s : State) (pre post rest : List Answer) (w r : Answer) (f : Frame6) (c : ConfigurationRegister),
    waitFits s.params s.params.readySamples = true →
    s.answers = pre ++ [w, r] ++ post ++ rest →
    pre.length = setModeCost s.params s.serialOpen → post.length = setModeCost s.params true →
    (∀ a ∈ pre ++ post, a.Good) → w.fails = false → r.fails = false → r.rx = some f →
    decodeCfgFrame s.params.powerTable f = .ok c →
    exec .readCfg s = .next { (s.inMode .normal).ended
      (setModeEvents s.params s.serialOpen .program ++ [sent s.params [0xC1#8, 0xC1#8, 0xC1#8], received s.params f]
        ++ setModeEvents s.params true .normal) rest 0x00#8 with
      cfgOut := c, cfgCache := some c }

/-- R164: READ_VER with good answers and a response with header C3: bytes 1 to 3 are in VER_OUT and VER_CACHE, and the
block is back in Normal. -/
def Obligations.ReadVerCompletes : Prop :=
  ∀ (s : State) (pre post rest : List Answer) (w r : Answer) (f : Frame6),
    waitFits s.params s.params.readySamples = true →
    s.answers = pre ++ [w, r] ++ post ++ rest →
    pre.length = setModeCost s.params s.serialOpen → post.length = setModeCost s.params true →
    (∀ a ∈ pre ++ post, a.Good) → w.fails = false → r.fails = false → r.rx = some f → f.b0 = 0xC3#8 →
    exec .readVer s = .next { (s.inMode .normal).ended
      (setModeEvents s.params s.serialOpen .program ++ [sent s.params [0xC3#8, 0xC3#8, 0xC3#8], received s.params f]
        ++ setModeEvents s.params true .normal) rest 0x00#8 with
      verOut := ⟨f.b1, f.b2, f.b3⟩, verCache := some ⟨f.b1, f.b2, f.b3⟩ }

/-- R160 (a), (b), R164 (a), R204: a response with a wrong header raises ProtocolError with that byte in ERR_INFO, after
the return to Normal; output registers and caches are unchanged. -/
def Obligations.WrongResponseHeader : Prop :=
  ∀ (s : State) (pre post rest : List Answer) (w r : Answer) (f : Frame6),
    waitFits s.params s.params.readySamples = true →
    s.answers = pre ++ [w, r] ++ post ++ rest →
    pre.length = setModeCost s.params s.serialOpen → post.length = setModeCost s.params true →
    (∀ a ∈ pre ++ post, a.Good) → w.fails = false → r.fails = false → r.rx = some f →
    (f.b0 ≠ 0xC0#8 → f.b0 ≠ 0xC2#8 →
      exec .readCfg s = .next { (s.inMode .normal).ended
        (setModeEvents s.params s.serialOpen .program ++ [sent s.params [0xC1#8, 0xC1#8, 0xC1#8], received s.params f]
          ++ setModeEvents s.params true .normal) rest 0x04#8 with errInfo := f.b0 }) ∧
    (f.b0 ≠ 0xC3#8 →
      exec .readVer s = .next { (s.inMode .normal).ended
        (setModeEvents s.params s.serialOpen .program ++ [sent s.params [0xC3#8, 0xC3#8, 0xC3#8], received s.params f]
          ++ setModeEvents s.params true .normal) rest 0x04#8 with errInfo := f.b0 })

/-- R162: a read that times out. With RESTORE_ON_READ_TIMEOUT the block returns to Normal first; without it the block is
left in Program at 9600. RESULT is TIMEOUT_READ in both, for READ_CFG and READ_VER alike. -/
def Obligations.ReadTimeout : Prop :=
  ∀ (s : State) (pre post rest : List Answer) (w r : Answer),
    waitFits s.params s.params.readySamples = true →
    s.answers = pre ++ [w, r] ++ post ++ rest →
    pre.length = setModeCost s.params s.serialOpen → post.length = setModeCost s.params true →
    (∀ a ∈ pre ++ post, a.Good) → w.fails = false → r.fails = false → r.rx = none →
    ∀ x ∈ [(Instr.readCfg, [0xC1#8, 0xC1#8, 0xC1#8]), (Instr.readVer, [0xC3#8, 0xC3#8, 0xC3#8])],
      (s.params.restoreOnReadTimeout = true → exec x.1 s = .next ((s.inMode .normal).ended
        (setModeEvents s.params s.serialOpen .program ++ [sent s.params x.2, readTimedOut s.params]
          ++ setModeEvents s.params true .normal) rest 0x02#8)) ∧
      (s.params.restoreOnReadTimeout = false → exec x.1 s = .next ((s.inMode .program).ended
        (setModeEvents s.params s.serialOpen .program ++ [sent s.params x.2, readTimedOut s.params])
        (post ++ rest) 0x02#8))

/-- R208 (3): when the read has timed out and the restoring SET_MODE(Normal) raises, its error is reported, in the state it
left, and the timeout is lost: whatever that SET_MODE raises, IoError or TimeoutError(READY), RESULT is its code. Two such
failures written out: a busy read that fails, and an open that fails (V56). -/
def Obligations.RestoreFailureReplacesTimeout : Prop :=
  ∀ (s : State) (pre rest : List Answer) (w r : Answer),
    waitFits s.params s.params.readySamples = true → s.params.restoreOnReadTimeout = true →
    s.answers = pre ++ [w, r] ++ rest → pre.length = setModeCost s.params s.serialOpen →
    (∀ a ∈ pre, a.Good) → w.fails = false → r.fails = false → r.rx = none →
    ∀ y ∈ [(Instr.readCfg, [0xC1#8, 0xC1#8, 0xC1#8]), (Instr.readVer, [0xC3#8, 0xC3#8, 0xC3#8])],
      let ev : List Event := setModeEvents s.params s.serialOpen .program ++ [sent s.params y.2, readTimedOut s.params]
      let timedOut : State := { s.inMode .program with
        answers := rest, trace := s.trace ++ ev, seq := ⟨[], false, .timeout⟩ }
      (∀ (e : Err) (t : State), runSeq (setModeLines s.params .normal) timedOut = .raised e t →
        (e = .io ∨ e = .timeoutReady) ∧
        exec y.1 s = .next { t with result := e.code, seq := Sequencer.idle }) ∧
      (∀ (ln rest' : List Answer) (x : Answer), rest = ln ++ [x] ++ rest' → ln.length = lineCost s.params →
        (∀ a ∈ ln, a.fails = false) → x.fails = true →
        exec y.1 s = .next (State.ended
          { s.inMode .normal with serialCfg := some (portCfg s.params .program) }
          (ev ++ lineEvents s.params .normal ++ [⟨.gpioRead s.params.pinBusy, .ioError⟩]) rest' 0x01#8)) ∧
      (∀ (lw rest' : List Answer) (c x : Answer), rest = lw ++ [c, x] ++ rest' →
        lw.length = lineCost s.params + s.params.readySamples → (∀ a ∈ lw, a.Good) → c.fails = false → x.fails = true →
        exec y.1 s = .next (State.ended
          { s.inMode .normal with
            serialOpen := Config.freeSerialOpen s.draws, serialCfg := Config.freeSerialCfg s.draws
            draws := s.draws + 1 }
          (ev ++ lineEvents s.params .normal ++ highRun s.params s.params.readySamples ++
            [⟨.serialClose s.params.port, .ok⟩, ⟨.serialOpen s.params.port (portCfg s.params .normal), .ioError⟩])
          rest' 0x01#8))

/-- R163: WRITE_CFG with good answers sends the encoding of CFG_IN in Program and ends in Normal; caches and output
registers are unchanged, and nothing is read back. -/
def Obligations.WriteCfgCompletes : Prop :=
  ∀ (s : State) (pre post rest : List Answer) (w : Answer),
    waitFits s.params s.params.readySamples = true →
    s.answers = pre ++ [w] ++ post ++ rest →
    pre.length = setModeCost s.params s.serialOpen → post.length = setModeCost s.params true →
    (∀ a ∈ pre ++ post, a.Good) → w.fails = false →
    exec .writeCfg s = .next ((s.inMode .normal).ended
      (setModeEvents s.params s.serialOpen .program
        ++ [sent s.params (encodeCfgFrame s.params.powerTable s.cfgIn).bytes]
        ++ setModeEvents s.params true .normal) rest 0x00#8)

/-- R165, R166: RESET_MODULE with good answers sends C4 C4 C4, waits, enters Program again and ends there, at 9600; the
caches are unchanged. -/
def Obligations.ResetModuleCompletes : Prop :=
  ∀ (s : State) (pre wait post rest : List Answer) (w : Answer),
    waitFits s.params s.params.readySamples = true →
    s.answers = pre ++ [w] ++ wait ++ post ++ rest →
    pre.length = setModeCost s.params s.serialOpen → wait.length = s.params.readySamples →
    post.length = setModeCost s.params true → (∀ a ∈ pre ++ wait ++ post, a.Good) → w.fails = false →
    exec .resetModule s = .next ((s.inMode .program).ended
      (setModeEvents s.params s.serialOpen .program ++ [sent s.params [0xC4#8, 0xC4#8, 0xC4#8]]
        ++ highRun s.params s.params.readySamples ++ setModeEvents s.params true .program) rest 0x00#8)

/-- R170 (4), R202, R203: a SerialWrite that fails, or the SerialRead of READ_CFG or READ_VER that fails, ends the sequence
with IO_ERROR; nothing is retried and nothing restored, whatever RESTORE_ON_READ_TIMEOUT is: the block stays in Program at
9600, and output registers and caches are unchanged. -/
def Obligations.FailedSendLeavesProgram : Prop :=
  ∀ (s : State) (pre : List Answer),
    waitFits s.params s.params.readySamples = true → pre.length = setModeCost s.params s.serialOpen →
    (∀ a ∈ pre, a.Good) →
    (∀ (w : Answer) (rest : List Answer), s.answers = pre ++ [w] ++ rest → w.fails = true →
      ∀ x ∈ [(Instr.readCfg, [0xC1#8, 0xC1#8, 0xC1#8]), (Instr.readVer, [0xC3#8, 0xC3#8, 0xC3#8]),
          (Instr.resetModule, [0xC4#8, 0xC4#8, 0xC4#8]),
          (Instr.writeCfg, (encodeCfgFrame s.params.powerTable s.cfgIn).bytes)],
        exec x.1 s = .next ((s.inMode .program).ended
          (setModeEvents s.params s.serialOpen .program ++ [⟨.serialWrite s.params.port x.2, .ioError⟩])
          rest 0x01#8)) ∧
    (∀ (w r : Answer) (rest : List Answer), s.answers = pre ++ [w, r] ++ rest → w.fails = false → r.fails = true →
      ∀ x ∈ [(Instr.readCfg, [0xC1#8, 0xC1#8, 0xC1#8]), (Instr.readVer, [0xC3#8, 0xC3#8, 0xC3#8])],
        exec x.1 s = .next ((s.inMode .program).ended
          (setModeEvents s.params s.serialOpen .program ++
            [sent s.params x.2, ⟨.serialRead s.params.port 6 20, .ioError⟩]) rest 0x01#8))

/-- R171: INITIALIZE with good answers and valid responses: the directions in the order busy, mode A, mode B, SET_MODE
Normal, READ_VER, READ_CFG; both caches and output registers are filled, and the block is in Normal. -/
def Obligations.InitializeCompletes : Prop :=
  ∀ (s : State) (d₁ d₂ d₃ wv rv wc rc : Answer) (a₀ a₁ a₂ a₃ a₄ rest : List Answer) (v f : Frame6)
    (c : ConfigurationRegister),
    waitFits s.params s.params.readySamples = true →
    s.answers = [d₁, d₂, d₃] ++ a₀ ++ a₁ ++ [wv, rv] ++ a₂ ++ a₃ ++ [wc, rc] ++ a₄ ++ rest →
    (∀ d ∈ [d₁, d₂, d₃, wv, rv, wc, rc], d.fails = false) →
    a₀.length = setModeCost s.params s.serialOpen →
    (∀ l ∈ [a₁, a₂, a₃, a₄], l.length = setModeCost s.params true) →
    (∀ a ∈ a₀ ++ a₁ ++ a₂ ++ a₃ ++ a₄, a.Good) →
    rv.rx = some v → v.b0 = 0xC3#8 → rc.rx = some f → decodeCfgFrame s.params.powerTable f = .ok c →
    exec .initBlock s = .next { (s.inMode .normal).ended
      ([⟨.gpioSetDir s.params.pinBusy .input, .ok⟩, ⟨.gpioSetDir s.params.pinModeA .output, .ok⟩,
        ⟨.gpioSetDir s.params.pinModeB .output, .ok⟩]
        ++ setModeEvents s.params s.serialOpen .normal
        ++ setModeEvents s.params true .program ++ [sent s.params [0xC3#8, 0xC3#8, 0xC3#8], received s.params v]
        ++ setModeEvents s.params true .normal
        ++ setModeEvents s.params true .program ++ [sent s.params [0xC1#8, 0xC1#8, 0xC1#8], received s.params f]
        ++ setModeEvents s.params true .normal) rest 0x00#8 with
      gpioDir := ⟨.input, .output, .output⟩
      verOut := ⟨v.b1, v.b2, v.b3⟩, verCache := some ⟨v.b1, v.b2, v.b3⟩
      cfgOut := c, cfgCache := some c }

/-- R206, R172: whatever error an enclosed step of INITIALIZE raises, INITIALIZE reports INIT_ERROR of it, and the state
the failed step left stays (R202); with no error it reports OK. So its RESULT is 0x00 or 0x81 to 0x84, never an error
code unwrapped. -/
def Obligations.InitializeWrapsEveryError : Prop :=
  (∀ (s t : State) (e : Err), runSeq (initLines s.params) s.idle = .raised e t →
    exec .initBlock s = .next { t with
      result := 0x80#8 ||| e.code, errInfo := e.infoAfter t.errInfo, seq := Sequencer.idle }) ∧
  (∀ s t : State, exec .initBlock s = .next t → t.IsIdle →
    t.result ∈ [0x00#8, 0x81#8, 0x82#8, 0x83#8, 0x84#8])

/-- R171, R172, R203: a direction that cannot be set ends INITIALIZE with INIT_ERROR(IO_ERROR); a direction is recorded
only after its write succeeded, and nothing else has changed. -/
def Obligations.FailedDirectionWrite : Prop :=
  ∀ (s : State) (x : Answer) (rest : List Answer), x.fails = true →
    let busy : Prim := .gpioSetDir s.params.pinBusy .input
    let lineA : Prim := .gpioSetDir s.params.pinModeA .output
    let lineB : Prim := .gpioSetDir s.params.pinModeB .output
    (s.answers = x :: rest → exec .initBlock s = .next (s.ended [⟨busy, .ioError⟩] rest 0x81#8)) ∧
    (∀ a : Answer, a.fails = false → s.answers = a :: x :: rest → exec .initBlock s = .next (State.ended
      { s with gpioDir := { s.gpioDir with busy := .input } } [⟨busy, .ok⟩, ⟨lineA, .ioError⟩] rest 0x81#8)) ∧
    (∀ a b : Answer, a.fails = false → b.fails = false → s.answers = a :: b :: x :: rest →
      exec .initBlock s = .next (State.ended
        { s with gpioDir := { s.gpioDir with busy := .input, modeA := .output } }
        [⟨busy, .ok⟩, ⟨lineA, .ok⟩, ⟨lineB, .ioError⟩] rest 0x81#8))

/-- R24, R27, R29, R170 (5), R171: what the sequences leave unchanged, whatever the environment answers. An output register
and its cache change only when the read they belong to has succeeded: for READ_CFG and READ_VER, when the whole sequence
has ended with OK; in INITIALIZE, CFG_OUT and CFG_CACHE only when it has ended with OK, and VER_OUT and VER_CACHE only to
one and the same record (which one: InitializeFailsInARead, InitializeCompletes). So no cache that holds a value ever comes
to hold none. INITIALIZE leaves each direction or sets it. -/
def Obligations.SequenceFrame : Prop :=
  ∀ s t : State,
    (exec .readCfg s = .next t → SameOperands s t ∧ SameVer s t ∧ t.frameOut = s.frameOut ∧ t.gpioDir = s.gpioDir ∧
      (SameCfg s t ∨ (t.IsIdle ∧ t.result = 0x00#8 ∧ t.cfgCache = some t.cfgOut))) ∧
    (exec .readVer s = .next t → SameOperands s t ∧ SameCfg s t ∧ t.frameOut = s.frameOut ∧ t.gpioDir = s.gpioDir ∧
      (SameVer s t ∨ (t.IsIdle ∧ t.result = 0x00#8 ∧ t.verCache = some t.verOut))) ∧
    (exec .writeCfg s = .next t → SameOperands s t ∧ SameCfg s t ∧ SameVer s t ∧ t.frameOut = s.frameOut ∧
      t.errInfo = s.errInfo ∧ t.gpioDir = s.gpioDir) ∧
    (exec .resetModule s = .next t → SameOperands s t ∧ SameCfg s t ∧ SameVer s t ∧ t.frameOut = s.frameOut ∧
      t.errInfo = s.errInfo ∧ t.gpioDir = s.gpioDir) ∧
    (exec .initBlock s = .next t → SameOperands s t ∧ t.frameOut = s.frameOut ∧
      (SameCfg s t ∨ (t.IsIdle ∧ t.result = 0x00#8 ∧ t.cfgCache = some t.cfgOut)) ∧
      (SameVer s t ∨ t.verCache = some t.verOut) ∧
      (t.gpioDir.busy = s.gpioDir.busy ∨ t.gpioDir.busy = .input) ∧
      (t.gpioDir.modeA = s.gpioDir.modeA ∨ t.gpioDir.modeA = .output) ∧
      (t.gpioDir.modeB = s.gpioDir.modeB ∨ t.gpioDir.modeB = .output))

/-- R171 (a), (b), R172, R29: an INITIALIZE that fails before or in READ_VER leaves both caches and both output registers,
and READ_CFG does not run: the state is the one the failed step left, with INIT_ERROR. One that fails in READ_CFG leaves
VER_OUT and VER_CACHE with what READ_VER has just read, and CFG_OUT and CFG_CACHE as they were. -/
def Obligations.InitializeFailsInARead : Prop :=
  ∀ s : State,
    let throughVer : List Action :=
      [.setDirBusy, .setDirModeA, .setDirModeB] ++ setModeLines s.params .normal ++ readVerLines s.params
    (∀ (e : Err) (t : State), runSeq throughVer s.idle = .raised e t →
      exec .initBlock s = .next (t.raise true e) ∧ SameVer s t ∧ SameCfg s t) ∧
    (∀ (e : Err) (u t : State), runSeq throughVer s.idle = .done u → runSeq (readCfgLines s.params) u = .raised e t →
      exec .initBlock s = .next (t.raise true e) ∧
      (∃ f, u.seq.held = .bytes f ∧ f.b0 = 0xC3#8 ∧ u.verOut = ⟨f.b1, f.b2, f.b3⟩ ∧ u.verCache = some u.verOut) ∧
      SameVer u t ∧ SameCfg s t)

/-! ## The frames on the wire -/

/-- R73, R74, R54, R170 (2), R203: each frame the block sends is the one SerialWrite of the operation that stands before it,
its bytes in index order, and the operation then stands before its next line; nothing else changes. When it fails, the
operation ends with IoError. No operation in progress, or one that does not stand before this frame, sends nothing (R240).
That a frame is a word of its own is the model's choice (log entry 9), and so is the answer of the oracle where none is
listed (log entry 6). -/
def Obligations.FramesAreSent : Prop :=
  ∀ (s : State) (c : CfgFields),
    ∀ x ∈ [(Instr.wireReadParams, [0xC1#8, 0xC1#8, 0xC1#8]), (Instr.wireReadVersion, [0xC3#8, 0xC3#8, 0xC3#8]),
        (Instr.wireReset, [0xC4#8, 0xC4#8, 0xC4#8]),
        (Instr.wireWritePersist c, (c.toFrame 0xC0#8).bytes), (Instr.wireWriteVolatile c, (c.toFrame 0xC2#8).bytes)],
      let sends (a : Action) : Prop :=
        a = .send x.2 ∨ (a = .sendCfgIn ∧ (encodeCfgFrame s.params.powerTable s.cfgIn).bytes = x.2)
      (∀ (a : Action) (todo : List Action) (y : Answer) (rest : List Answer), s.seq.todo = a :: todo → sends a →
        s.answers = y :: rest →
        (y.fails = false → exec x.1 s = .next { s with
          answers := rest, trace := s.trace ++ [sent s.params x.2], seq := ⟨todo, s.seq.wrap, s.seq.held⟩ }) ∧
        (y.fails = true → exec x.1 s = .next (State.raise
          { s with answers := rest, trace := s.trace ++ [⟨.serialWrite s.params.port x.2, .ioError⟩] } s.seq.wrap .io))) ∧
      (∀ (a : Action) (todo : List Action), s.seq.todo = a :: todo → sends a → s.answers = [] →
        exec x.1 s = exec x.1 { s with answers := [Config.oracle s.asked], asked := s.asked + 1 }) ∧
      ((∀ (a : Action) (todo : List Action), s.seq.todo = a :: todo → ¬ sends a) → exec x.1 s = .next s)

/-- R75, R76, R160, R164, R29, R60: a response is decoded and kept only by the operation that reads it. READ_CFG and
READ_VER, with the answers up to their SerialWrite, stand at their SerialRead; there the response they ask for completes
them, with good answers for the return to Normal: the record is in the output register and the cache, RESULT is OK. The
other kind of response ends them with ProtocolError instead. With no SerialRead under way a response changes nothing of
the block. That a response arrives as a move of its own is the model's choice (log entry 9). -/
def Obligations.ResponsesAreAccepted : Prop :=
  (∀ (s : State) (pre : List Answer) (w : Answer), waitFits s.params s.params.readySamples = true →
    s.answers = pre ++ [w] → pre.length = setModeCost s.params s.serialOpen → (∀ a ∈ pre, a.Good) → w.fails = false →
    ∀ x ∈ [(Instr.readCfg, [0xC1#8, 0xC1#8, 0xC1#8], Action.acceptCfg),
        (Instr.readVer, [0xC3#8, 0xC3#8, 0xC3#8], Action.acceptVer)],
      exec x.1 s = .next { s.inMode .program with
        answers := []
        trace := s.trace ++ setModeEvents s.params s.serialOpen .program ++ [sent s.params x.2.1]
        seq := ⟨restOfRead s.params x.2.2, false, .nothing⟩ }) ∧
  (∀ (s : State) (c : CfgFields) (v : VerFields) (post rest : List Answer),
    waitFits s.params s.params.readySamples = true → s.answers = post ++ rest →
    post.length = setModeCost s.params s.serialOpen → (∀ a ∈ post, a.Good) →
    let version : Frame6 := ⟨0xC3#8, v.model, v.version, v.features, v.byte4, v.byte5⟩
    let back (f : Frame6) (code : Byte) : State :=
      (s.inMode .normal).ended ([received s.params f] ++ setModeEvents s.params s.serialOpen .normal) rest code
    (∀ h, s.seq = ⟨restOfRead s.params .acceptCfg, false, h⟩ →
      (exec (.wireParamsResponsePersist c) s =
        let r := decodeFields s.params.powerTable true c
        .next { back (c.toFrame 0xC0#8) 0x00#8 with cfgOut := r, cfgCache := some r }) ∧
      (exec (.wireParamsResponseVolatile c) s =
        let r := decodeFields s.params.powerTable false c
        .next { back (c.toFrame 0xC2#8) 0x00#8 with cfgOut := r, cfgCache := some r }) ∧
      exec (.wireVersionResponse v) s = .next { back version 0x04#8 with errInfo := 0xC3#8 }) ∧
    (∀ h, s.seq = ⟨restOfRead s.params .acceptVer, false, h⟩ →
      (exec (.wireVersionResponse v) s =
        let r : VersionInfo := ⟨v.model, v.version, v.features⟩
        .next { back version 0x00#8 with verOut := r, verCache := some r }) ∧
      exec (.wireParamsResponsePersist c) s = .next { back (c.toFrame 0xC0#8) 0x04#8 with errInfo := 0xC0#8 } ∧
      exec (.wireParamsResponseVolatile c) s = .next { back (c.toFrame 0xC2#8) 0x04#8 with errInfo := 0xC2#8 })) ∧
  (∀ (s : State) (c : CfgFields) (v : VerFields), (∀ todo, s.seq.todo ≠ .receive :: todo) →
    ∀ i ∈ [Instr.wireParamsResponsePersist c, .wireParamsResponseVolatile c, .wireVersionResponse v],
      exec i s = .next s)

/-! ## The whole machine -/

/-- The invariant holds after reset of a block that asks for at least one ready sample (R8, R31). -/
def Obligations.ResetMeetsInvariant : Prop :=
  ∀ p : Params, 1 ≤ p.readySamples → (State.resetWith p).Inv

/-- Every step keeps the invariant: the pins' directions are legal (R27), the port is 8N1 without flow control at 9600 or
OP_BAUD unless a failure left it unspecified (R9, R28, R103), a cached register is canonical (R29, R123). -/
def Obligations.StepKeepsInvariant : Prop :=
  ∀ s t : State, s.Inv → step s = .next t → t.Inv

/-- R201: a step that writes RESULT writes one of the codes of the table; 0x06 to 0x80 and 0x85 to 0xFF are never
written. -/
def Obligations.ResultCodesAreLegal : Prop :=
  ∀ s t : State, step s = .next t → t.result = s.result ∨
    t.result ∈ [0x00#8, 0x01#8, 0x02#8, 0x03#8, 0x04#8, 0x05#8, 0x81#8, 0x82#8, 0x83#8, 0x84#8]

/-- R24, R204: ERR_INFO is written only by a raise of ProtocolError: a step that changes it ends an operation with
PROTOCOL_UNRECOGNIZED_HEADER, or with INIT_ERROR of it. -/
def Obligations.ErrInfoOnlyByProtocolError : Prop :=
  ∀ s t : State, step s = .next t → t.errInfo = s.errInfo ∨ (t.IsIdle ∧ (t.result = 0x04#8 ∨ t.result = 0x84#8))

/-- R29, R27: no operation reads the caches, and no rule reads GPIO_DIR: with other values there, every instruction comes
to the same state but for them. -/
def Obligations.CachesAndDirectionsAreReadByNothing : Prop :=
  ∀ (i : Instr) (s t : State) (c : Option ConfigurationRegister) (v : Option VersionInfo) (d : GpioDir),
    exec i s = .next t → ∃ c' v' d',
      exec i { s with cfgCache := c, verCache := v, gpioDir := d } =
        .next { t with cfgCache := c', verCache := v', gpioDir := d' }

/-- R29, R60: CFG_CACHE is written only by READ_CFG and VER_CACHE only by READ_VER, also inside INITIALIZE; no operation
invalidates them. An instruction that writes one is such an operation, or the response that one standing at its SerialRead
reads (log entry 9). A step that writes one runs the command word of such an operation or goes on with one. -/
def Obligations.CachesAreWrittenOnlyByReads : Prop :=
  (∀ (i : Instr) (s t : State), exec i s = .next t →
    (t.cfgCache ≠ s.cfgCache → i = .readCfg ∨ i = .initBlock ∨ ∃ todo, s.seq.todo = .receive :: todo ∧
      .acceptCfg ∈ todo ∧ ∃ c v, i ∈ [Instr.wireParamsResponsePersist c, .wireParamsResponseVolatile c,
        .wireVersionResponse v]) ∧
    (t.verCache ≠ s.verCache → i = .readVer ∨ i = .initBlock ∨ ∃ todo, s.seq.todo = .receive :: todo ∧
      .acceptVer ∈ todo ∧ ∃ c v, i ∈ [Instr.wireParamsResponsePersist c, .wireParamsResponseVolatile c,
        .wireVersionResponse v])) ∧
  (∀ s t : State, step s = .next t →
    let runs (i : Instr) : Prop := s.seq.todo = [] ∧ ∃ c rest, s.inputs = .issue (.cmd c) :: rest ∧ decode (.cmd c) = .ok i
    (t.cfgCache ≠ s.cfgCache → .acceptCfg ∈ s.seq.todo ∨ runs .readCfg ∨ runs .initBlock) ∧
    (t.verCache ≠ s.verCache → .acceptVer ∈ s.seq.todo ∨ runs .readVer ∨ runs .initBlock) ∧
    (s.cfgCache ≠ none → t.cfgCache ≠ none) ∧ (s.verCache ≠ none → t.verCache ≠ none))

/-- R202, R55: nothing that was performed is undone: a step only adds events after those before it. R8: no step changes a
parameter. -/
def Obligations.EventsAreKeptAndParametersFixed : Prop :=
  ∀ s t : State, step s = .next t → (∃ ev, t.trace = s.trace ++ ev) ∧ t.params = s.params

/-- R20, R56, R215: operations do not overlap: while one is in progress, a step takes no move of the host and leaves the
registers the host writes. The one move it may take is the word the operation stands before: the bytes its SerialRead reads
(R161), or the code or the frame it puts out; never a command (log entry 9). -/
def Obligations.OperationsDoNotOverlap : Prop :=
  ∀ s t : State, s.seq.todo ≠ [] → step s = .next t →
    (t.inputs = s.inputs ∨ ∃ w a todo, s.seq.todo = a :: todo ∧ a.standsAt s w = true ∧ (∀ c, w ≠ .cmd c) ∧
      s.inputs = .issue w :: t.inputs) ∧
    t.cmd = s.cmd ∧ t.frameIn = s.frameIn ∧ t.cfgIn = s.cfgIn

/-- R240, R170 (1): no sequence sends a frame without a completed SET_MODE(Program) before it: in the events of a command
sequence every SerialWrite happens while the port is open with Program's settings, opened in that same sequence. -/
def Obligations.FramesAreSentOnlyInProgram : Prop :=
  ∀ i ∈ [Instr.readCfg, .writeCfg, .readVer, .resetModule, .initBlock], ∀ s t : State, exec i s = .next t →
    ∃ ev, t.trace = s.trace ++ ev ∧ sendsInProgram s.params false ev = true

/-- R240, R170 (1), R55: no step, of whatever instruction or move, sends a frame but with the port open in Program's settings,
as the last line of a SET_MODE(Program) leaves it (R101): what is left of an operation keeps every SerialWrite after such a
SerialOpen, and every SerialWrite that a step performs finds the port open so. -/
def Obligations.EveryStepSendsOnlyInProgram : Prop :=
  ∀ s t : State, s.SendsInProgram → step s = .next t →
    t.SendsInProgram ∧ ∃ ev, t.trace = s.trace ++ ev ∧ sendsInProgram s.params s.portInProgram ev = true

/-- After reset nothing is to be sent (R31, R231). -/
def Obligations.ResetSendsOnlyInProgram : Prop :=
  ∀ p : Params, (State.resetWith p).SendsInProgram

/-- R240: the lines change, and a frame is sent, only inside operations. A step that drives a line, or performs a SerialWrite,
goes on with an operation that has such a line of its own to come, or runs the host's command word of one; and a code or a
frame by itself does neither, in any state in which no operation stands before it. -/
def Obligations.LinesAndFramesOnlyInsideOperations : Prop :=
  (∀ s t : State, step s = .next t →
    let runs (l : List Instr) : Prop :=
      s.seq.todo = [] ∧ ∃ c rest i, s.inputs = .issue (.cmd c) :: rest ∧ decode (.cmd c) = .ok i ∧ i ∈ l
    ((t.lineA ≠ s.lineA ∨ t.lineB ≠ s.lineB) → (∃ a ∈ s.seq.todo, a.drivesLines = true) ∨
      runs [.setMode .normal, .setMode .wakeup, .setMode .powerSaving, .setMode .program, .readCfg, .writeCfg, .readVer,
        .resetModule, .initBlock]) ∧
    ((∃ e ∈ t.trace.drop s.trace.length, ∃ port bytes, e.prim = .serialWrite port bytes) →
      (∃ a ∈ s.seq.todo, a = .sendCfgIn ∨ ∃ bytes, a = .send bytes) ∨
      runs [.readCfg, .writeCfg, .readVer, .resetModule, .initBlock])) ∧
  (∀ (s : State) (c : CfgFields), s.seq.todo = [] →
    ∀ i ∈ [Instr.modeNormal, .modeWakeup, .modePowerSaving, .modeProgram, .wireReadParams, .wireReadVersion, .wireReset,
      .wireWritePersist c, .wireWriteVolatile c], exec i s = .next s)

/-- R250, R109: the minimum delay of each operation that ends with OK, with 10 ms more for each LOW sample. The spec
marks this as derived from its other rules. -/
def Obligations.MinimumDelays : Prop :=
  ∀ x ∈ [(Instr.waitReady, 20), (Instr.readCfg, 40), (Instr.readVer, 40), (Instr.writeCfg, 40),
      (Instr.resetModule, 60), (Instr.initBlock, 100), (Instr.setMode .normal, 20), (Instr.setMode .wakeup, 20),
      (Instr.setMode .powerSaving, 20), (Instr.setMode .program, 20)],
    ∀ s t : State, 1 ≤ s.params.readySamples → exec x.1 s = .next t → t.IsIdle → t.result = 0x00#8 →
      ∃ ev, t.trace = s.trace ++ ev ∧ x.2 + 10 * lowSamples ev ≤ minTime ev

/-- Every instruction goes on in every state, and a step stops only on bytes to be sent that are no frame of R73 and R74.
From the spec: every error it names is a result code, and there is no trap (R200 to R202, R209); an illegal command is such
an error (R89, R207); no raw code of a frame is illegal (R90). The model's choices: that an instruction goes on also where
it reads a FRAME_IN or CFG_IN that was never written, where R24, R121 (e) and I5 ask for a fault (log entry 2); that bytes
which are no frame stop the step, with the fault `notAFrame` (log entry 18); and that bytes to be sent are a move at all,
which the spec's host does not have (log entry 9). With an operation in progress such bytes are taken only where it stands
at sending these very bytes, and no operation of the spec's does (R77). -/
def Obligations.OnlyBadFramesStopTheMachine : Prop :=
  (∀ (i : Instr) (s : State), ∃ t, exec i s = .next t) ∧
  (∀ s : State, (¬ ∃ t, step s = .next t) ↔
    ∃ bytes rest, (s.seq.todo = [] ∨ ∃ todo, s.seq.todo = .send bytes :: todo) ∧
      s.inputs = .issue (.tx bytes) :: rest ∧ ∀ i, decode (.tx bytes) ≠ .ok i)

/-- R80, R204, R160, R164: six bytes that arrive with a header none of C0, C2 and C3 end the READ_CFG or READ_VER that
reads them, after its return to Normal, with ProtocolError and the header in ERR_INFO; no output register and no cache is
written. With no operation in progress they change nothing (R30; that they arrive as a move of their own is the model's
choice, log entry 9). -/
def Obligations.UnknownResponseHeader : Prop :=
  ∀ (s : State) (f : Frame6) (moves : List HostMove), s.inputs = .issue (.rx f) :: moves →
    f.b0 ≠ 0xC0#8 → f.b0 ≠ 0xC2#8 → f.b0 ≠ 0xC3#8 →
    (s.seq.todo = [] → step s = .next { s with inputs := moves }) ∧
    (∀ (accept : Action) (h : Held) (post rest : List Answer), accept = .acceptCfg ∨ accept = .acceptVer →
      s.seq = ⟨restOfRead s.params accept, false, h⟩ → waitFits s.params s.params.readySamples = true →
      s.answers = post ++ rest → post.length = setModeCost s.params s.serialOpen → (∀ a ∈ post, a.Good) →
      step s = .next { (s.inMode .normal).ended
        ([received s.params f] ++ setModeEvents s.params s.serialOpen .normal) rest 0x04#8 with
          inputs := moves, errInfo := f.b0 })
end

