-- ==== Sys2Proof/Laws/State.lean ====
section
/-! SUPPORT. What each named update of Machine/Ops.lean and Safety.lean does to each field of State: one lemma per
field per update, true by rfl, so that no proof unfolds a record update. -/

namespace Sys2Proof.Machine

open Sys2Proof

@[simp] theorem State.record_params (s : State) (p : Prim) (r : Reply) : (s.record p r).params = s.params := rfl
@[simp] theorem State.record_cmd (s : State) (p : Prim) (r : Reply) : (s.record p r).cmd = s.cmd := rfl
@[simp] theorem State.record_frameIn (s : State) (p : Prim) (r : Reply) : (s.record p r).frameIn = s.frameIn := rfl
@[simp] theorem State.record_cfgIn (s : State) (p : Prim) (r : Reply) : (s.record p r).cfgIn = s.cfgIn := rfl
@[simp] theorem State.record_frameOut (s : State) (p : Prim) (r : Reply) : (s.record p r).frameOut = s.frameOut := rfl
@[simp] theorem State.record_cfgOut (s : State) (p : Prim) (r : Reply) : (s.record p r).cfgOut = s.cfgOut := rfl
@[simp] theorem State.record_verOut (s : State) (p : Prim) (r : Reply) : (s.record p r).verOut = s.verOut := rfl
@[simp] theorem State.record_result (s : State) (p : Prim) (r : Reply) : (s.record p r).result = s.result := rfl
@[simp] theorem State.record_errInfo (s : State) (p : Prim) (r : Reply) : (s.record p r).errInfo = s.errInfo := rfl
@[simp] theorem State.record_mode (s : State) (p : Prim) (r : Reply) : (s.record p r).mode = s.mode := rfl
@[simp] theorem State.record_lineA (s : State) (p : Prim) (r : Reply) : (s.record p r).lineA = s.lineA := rfl
@[simp] theorem State.record_lineB (s : State) (p : Prim) (r : Reply) : (s.record p r).lineB = s.lineB := rfl
@[simp] theorem State.record_gpioDir (s : State) (p : Prim) (r : Reply) : (s.record p r).gpioDir = s.gpioDir := rfl
@[simp] theorem State.record_serialOpen (s : State) (p : Prim) (r : Reply) :
    (s.record p r).serialOpen = s.serialOpen := rfl
@[simp] theorem State.record_serialCfg (s : State) (p : Prim) (r : Reply) :
    (s.record p r).serialCfg = s.serialCfg := rfl
@[simp] theorem State.record_cfgCache (s : State) (p : Prim) (r : Reply) : (s.record p r).cfgCache = s.cfgCache := rfl
@[simp] theorem State.record_verCache (s : State) (p : Prim) (r : Reply) : (s.record p r).verCache = s.verCache := rfl
@[simp] theorem State.record_inputs (s : State) (p : Prim) (r : Reply) : (s.record p r).inputs = s.inputs := rfl
@[simp] theorem State.record_answers (s : State) (p : Prim) (r : Reply) : (s.record p r).answers = s.answers := rfl
@[simp] theorem State.record_asked (s : State) (p : Prim) (r : Reply) : (s.record p r).asked = s.asked := rfl
@[simp] theorem State.record_draws (s : State) (p : Prim) (r : Reply) : (s.record p r).draws = s.draws := rfl
@[simp] theorem State.record_trace (s : State) (p : Prim) (r : Reply) :
    (s.record p r).trace = s.trace ++ [⟨p, r⟩] := rfl
@[simp] theorem State.record_seq (s : State) (p : Prim) (r : Reply) : (s.record p r).seq = s.seq := rfl

@[simp] theorem State.withAnswers_params (s : State) (as : List Answer) : (s.withAnswers as).params = s.params := rfl
@[simp] theorem State.withAnswers_cmd (s : State) (as : List Answer) : (s.withAnswers as).cmd = s.cmd := rfl
@[simp] theorem State.withAnswers_frameIn (s : State) (as : List Answer) : (s.withAnswers as).frameIn = s.frameIn := rfl
@[simp] theorem State.withAnswers_cfgIn (s : State) (as : List Answer) : (s.withAnswers as).cfgIn = s.cfgIn := rfl
@[simp] theorem State.withAnswers_frameOut (s : State) (as : List Answer) :
    (s.withAnswers as).frameOut = s.frameOut := rfl
@[simp] theorem State.withAnswers_cfgOut (s : State) (as : List Answer) : (s.withAnswers as).cfgOut = s.cfgOut := rfl
@[simp] theorem State.withAnswers_verOut (s : State) (as : List Answer) : (s.withAnswers as).verOut = s.verOut := rfl
@[simp] theorem State.withAnswers_result (s : State) (as : List Answer) : (s.withAnswers as).result = s.result := rfl
@[simp] theorem State.withAnswers_errInfo (s : State) (as : List Answer) : (s.withAnswers as).errInfo = s.errInfo := rfl
@[simp] theorem State.withAnswers_mode (s : State) (as : List Answer) : (s.withAnswers as).mode = s.mode := rfl
@[simp] theorem State.withAnswers_lineA (s : State) (as : List Answer) : (s.withAnswers as).lineA = s.lineA := rfl
@[simp] theorem State.withAnswers_lineB (s : State) (as : List Answer) : (s.withAnswers as).lineB = s.lineB := rfl
@[simp] theorem State.withAnswers_gpioDir (s : State) (as : List Answer) : (s.withAnswers as).gpioDir = s.gpioDir := rfl
@[simp] theorem State.withAnswers_serialOpen (s : State) (as : List Answer) :
    (s.withAnswers as).serialOpen = s.serialOpen := rfl
@[simp] theorem State.withAnswers_serialCfg (s : State) (as : List Answer) :
    (s.withAnswers as).serialCfg = s.serialCfg := rfl
@[simp] theorem State.withAnswers_cfgCache (s : State) (as : List Answer) :
    (s.withAnswers as).cfgCache = s.cfgCache := rfl
@[simp] theorem State.withAnswers_verCache (s : State) (as : List Answer) :
    (s.withAnswers as).verCache = s.verCache := rfl
@[simp] theorem State.withAnswers_inputs (s : State) (as : List Answer) : (s.withAnswers as).inputs = s.inputs := rfl
@[simp] theorem State.withAnswers_answers (s : State) (as : List Answer) : (s.withAnswers as).answers = as := rfl
@[simp] theorem State.withAnswers_asked (s : State) (as : List Answer) : (s.withAnswers as).asked = s.asked := rfl
@[simp] theorem State.withAnswers_draws (s : State) (as : List Answer) : (s.withAnswers as).draws = s.draws := rfl
@[simp] theorem State.withAnswers_trace (s : State) (as : List Answer) : (s.withAnswers as).trace = s.trace := rfl
@[simp] theorem State.withAnswers_seq (s : State) (as : List Answer) : (s.withAnswers as).seq = s.seq := rfl

@[simp] theorem State.delay_params (s : State) (ms : Nat) : (s.delay ms).params = s.params := rfl
@[simp] theorem State.delay_cmd (s : State) (ms : Nat) : (s.delay ms).cmd = s.cmd := rfl
@[simp] theorem State.delay_frameIn (s : State) (ms : Nat) : (s.delay ms).frameIn = s.frameIn := rfl
@[simp] theorem State.delay_cfgIn (s : State) (ms : Nat) : (s.delay ms).cfgIn = s.cfgIn := rfl
@[simp] theorem State.delay_frameOut (s : State) (ms : Nat) : (s.delay ms).frameOut = s.frameOut := rfl
@[simp] theorem State.delay_cfgOut (s : State) (ms : Nat) : (s.delay ms).cfgOut = s.cfgOut := rfl
@[simp] theorem State.delay_verOut (s : State) (ms : Nat) : (s.delay ms).verOut = s.verOut := rfl
@[simp] theorem State.delay_result (s : State) (ms : Nat) : (s.delay ms).result = s.result := rfl
@[simp] theorem State.delay_errInfo (s : State) (ms : Nat) : (s.delay ms).errInfo = s.errInfo := rfl
@[simp] theorem State.delay_mode (s : State) (ms : Nat) : (s.delay ms).mode = s.mode := rfl
@[simp] theorem State.delay_lineA (s : State) (ms : Nat) : (s.delay ms).lineA = s.lineA := rfl
@[simp] theorem State.delay_lineB (s : State) (ms : Nat) : (s.delay ms).lineB = s.lineB := rfl
@[simp] theorem State.delay_gpioDir (s : State) (ms : Nat) : (s.delay ms).gpioDir = s.gpioDir := rfl
@[simp] theorem State.delay_serialOpen (s : State) (ms : Nat) : (s.delay ms).serialOpen = s.serialOpen := rfl
@[simp] theorem State.delay_serialCfg (s : State) (ms : Nat) : (s.delay ms).serialCfg = s.serialCfg := rfl
@[simp] theorem State.delay_cfgCache (s : State) (ms : Nat) : (s.delay ms).cfgCache = s.cfgCache := rfl
@[simp] theorem State.delay_verCache (s : State) (ms : Nat) : (s.delay ms).verCache = s.verCache := rfl
@[simp] theorem State.delay_inputs (s : State) (ms : Nat) : (s.delay ms).inputs = s.inputs := rfl
@[simp] theorem State.delay_answers (s : State) (ms : Nat) : (s.delay ms).answers = s.answers := rfl
@[simp] theorem State.delay_asked (s : State) (ms : Nat) : (s.delay ms).asked = s.asked := rfl
@[simp] theorem State.delay_draws (s : State) (ms : Nat) : (s.delay ms).draws = s.draws := rfl
@[simp] theorem State.delay_trace (s : State) (ms : Nat) : (s.delay ms).trace = s.trace ++ [⟨.delay ms, .ok⟩] := rfl
@[simp] theorem State.delay_seq (s : State) (ms : Nat) : (s.delay ms).seq = s.seq := rfl

@[simp] theorem State.idle_params (s : State) : (s.idle).params = s.params := rfl
@[simp] theorem State.idle_cmd (s : State) : (s.idle).cmd = s.cmd := rfl
@[simp] theorem State.idle_frameIn (s : State) : (s.idle).frameIn = s.frameIn := rfl
@[simp] theorem State.idle_cfgIn (s : State) : (s.idle).cfgIn = s.cfgIn := rfl
@[simp] theorem State.idle_frameOut (s : State) : (s.idle).frameOut = s.frameOut := rfl
@[simp] theorem State.idle_cfgOut (s : State) : (s.idle).cfgOut = s.cfgOut := rfl
@[simp] theorem State.idle_verOut (s : State) : (s.idle).verOut = s.verOut := rfl
@[simp] theorem State.idle_result (s : State) : (s.idle).result = s.result := rfl
@[simp] theorem State.idle_errInfo (s : State) : (s.idle).errInfo = s.errInfo := rfl
@[simp] theorem State.idle_mode (s : State) : (s.idle).mode = s.mode := rfl
@[simp] theorem State.idle_lineA (s : State) : (s.idle).lineA = s.lineA := rfl
@[simp] theorem State.idle_lineB (s : State) : (s.idle).lineB = s.lineB := rfl
@[simp] theorem State.idle_gpioDir (s : State) : (s.idle).gpioDir = s.gpioDir := rfl
@[simp] theorem State.idle_serialOpen (s : State) : (s.idle).serialOpen = s.serialOpen := rfl
@[simp] theorem State.idle_serialCfg (s : State) : (s.idle).serialCfg = s.serialCfg := rfl
@[simp] theorem State.idle_cfgCache (s : State) : (s.idle).cfgCache = s.cfgCache := rfl
@[simp] theorem State.idle_verCache (s : State) : (s.idle).verCache = s.verCache := rfl
@[simp] theorem State.idle_inputs (s : State) : (s.idle).inputs = s.inputs := rfl
@[simp] theorem State.idle_answers (s : State) : (s.idle).answers = s.answers := rfl
@[simp] theorem State.idle_asked (s : State) : (s.idle).asked = s.asked := rfl
@[simp] theorem State.idle_draws (s : State) : (s.idle).draws = s.draws := rfl
@[simp] theorem State.idle_trace (s : State) : (s.idle).trace = s.trace := rfl
@[simp] theorem State.idle_seq (s : State) : (s.idle).seq = Sequencer.idle := rfl

@[simp] theorem State.hold_params (s : State) (h : Held) : (s.hold h).params = s.params := rfl
@[simp] theorem State.hold_cmd (s : State) (h : Held) : (s.hold h).cmd = s.cmd := rfl
@[simp] theorem State.hold_frameIn (s : State) (h : Held) : (s.hold h).frameIn = s.frameIn := rfl
@[simp] theorem State.hold_cfgIn (s : State) (h : Held) : (s.hold h).cfgIn = s.cfgIn := rfl
@[simp] theorem State.hold_frameOut (s : State) (h : Held) : (s.hold h).frameOut = s.frameOut := rfl
@[simp] theorem State.hold_cfgOut (s : State) (h : Held) : (s.hold h).cfgOut = s.cfgOut := rfl
@[simp] theorem State.hold_verOut (s : State) (h : Held) : (s.hold h).verOut = s.verOut := rfl
@[simp] theorem State.hold_result (s : State) (h : Held) : (s.hold h).result = s.result := rfl
@[simp] theorem State.hold_errInfo (s : State) (h : Held) : (s.hold h).errInfo = s.errInfo := rfl
@[simp] theorem State.hold_mode (s : State) (h : Held) : (s.hold h).mode = s.mode := rfl
@[simp] theorem State.hold_lineA (s : State) (h : Held) : (s.hold h).lineA = s.lineA := rfl
@[simp] theorem State.hold_lineB (s : State) (h : Held) : (s.hold h).lineB = s.lineB := rfl
@[simp] theorem State.hold_gpioDir (s : State) (h : Held) : (s.hold h).gpioDir = s.gpioDir := rfl
@[simp] theorem State.hold_serialOpen (s : State) (h : Held) : (s.hold h).serialOpen = s.serialOpen := rfl
@[simp] theorem State.hold_serialCfg (s : State) (h : Held) : (s.hold h).serialCfg = s.serialCfg := rfl
@[simp] theorem State.hold_cfgCache (s : State) (h : Held) : (s.hold h).cfgCache = s.cfgCache := rfl
@[simp] theorem State.hold_verCache (s : State) (h : Held) : (s.hold h).verCache = s.verCache := rfl
@[simp] theorem State.hold_inputs (s : State) (h : Held) : (s.hold h).inputs = s.inputs := rfl
@[simp] theorem State.hold_answers (s : State) (h : Held) : (s.hold h).answers = s.answers := rfl
@[simp] theorem State.hold_asked (s : State) (h : Held) : (s.hold h).asked = s.asked := rfl
@[simp] theorem State.hold_draws (s : State) (h : Held) : (s.hold h).draws = s.draws := rfl
@[simp] theorem State.hold_trace (s : State) (h : Held) : (s.hold h).trace = s.trace := rfl
@[simp] theorem State.hold_seq (s : State) (h : Held) : (s.hold h).seq = ⟨s.seq.todo, s.seq.wrap, h⟩ := rfl

@[simp] theorem State.withResult_params (s : State) (v : Byte) : (s.withResult v).params = s.params := rfl
@[simp] theorem State.withResult_cmd (s : State) (v : Byte) : (s.withResult v).cmd = s.cmd := rfl
@[simp] theorem State.withResult_frameIn (s : State) (v : Byte) : (s.withResult v).frameIn = s.frameIn := rfl
@[simp] theorem State.withResult_cfgIn (s : State) (v : Byte) : (s.withResult v).cfgIn = s.cfgIn := rfl
@[simp] theorem State.withResult_frameOut (s : State) (v : Byte) : (s.withResult v).frameOut = s.frameOut := rfl
@[simp] theorem State.withResult_cfgOut (s : State) (v : Byte) : (s.withResult v).cfgOut = s.cfgOut := rfl
@[simp] theorem State.withResult_verOut (s : State) (v : Byte) : (s.withResult v).verOut = s.verOut := rfl
@[simp] theorem State.withResult_result (s : State) (v : Byte) : (s.withResult v).result = v := rfl
@[simp] theorem State.withResult_errInfo (s : State) (v : Byte) : (s.withResult v).errInfo = s.errInfo := rfl
@[simp] theorem State.withResult_mode (s : State) (v : Byte) : (s.withResult v).mode = s.mode := rfl
@[simp] theorem State.withResult_lineA (s : State) (v : Byte) : (s.withResult v).lineA = s.lineA := rfl
@[simp] theorem State.withResult_lineB (s : State) (v : Byte) : (s.withResult v).lineB = s.lineB := rfl
@[simp] theorem State.withResult_gpioDir (s : State) (v : Byte) : (s.withResult v).gpioDir = s.gpioDir := rfl
@[simp] theorem State.withResult_serialOpen (s : State) (v : Byte) : (s.withResult v).serialOpen = s.serialOpen := rfl
@[simp] theorem State.withResult_serialCfg (s : State) (v : Byte) : (s.withResult v).serialCfg = s.serialCfg := rfl
@[simp] theorem State.withResult_cfgCache (s : State) (v : Byte) : (s.withResult v).cfgCache = s.cfgCache := rfl
@[simp] theorem State.withResult_verCache (s : State) (v : Byte) : (s.withResult v).verCache = s.verCache := rfl
@[simp] theorem State.withResult_inputs (s : State) (v : Byte) : (s.withResult v).inputs = s.inputs := rfl
@[simp] theorem State.withResult_answers (s : State) (v : Byte) : (s.withResult v).answers = s.answers := rfl
@[simp] theorem State.withResult_asked (s : State) (v : Byte) : (s.withResult v).asked = s.asked := rfl
@[simp] theorem State.withResult_draws (s : State) (v : Byte) : (s.withResult v).draws = s.draws := rfl
@[simp] theorem State.withResult_trace (s : State) (v : Byte) : (s.withResult v).trace = s.trace := rfl
@[simp] theorem State.withResult_seq (s : State) (v : Byte) : (s.withResult v).seq = s.seq := rfl

@[simp] theorem State.withLineA_params (s : State) (l : Level) : (s.withLineA l).params = s.params := rfl
@[simp] theorem State.withLineA_cmd (s : State) (l : Level) : (s.withLineA l).cmd = s.cmd := rfl
@[simp] theorem State.withLineA_frameIn (s : State) (l : Level) : (s.withLineA l).frameIn = s.frameIn := rfl
@[simp] theorem State.withLineA_cfgIn (s : State) (l : Level) : (s.withLineA l).cfgIn = s.cfgIn := rfl
@[simp] theorem State.withLineA_frameOut (s : State) (l : Level) : (s.withLineA l).frameOut = s.frameOut := rfl
@[simp] theorem State.withLineA_cfgOut (s : State) (l : Level) : (s.withLineA l).cfgOut = s.cfgOut := rfl
@[simp] theorem State.withLineA_verOut (s : State) (l : Level) : (s.withLineA l).verOut = s.verOut := rfl
@[simp] theorem State.withLineA_result (s : State) (l : Level) : (s.withLineA l).result = s.result := rfl
@[simp] theorem State.withLineA_errInfo (s : State) (l : Level) : (s.withLineA l).errInfo = s.errInfo := rfl
@[simp] theorem State.withLineA_mode (s : State) (l : Level) : (s.withLineA l).mode = s.mode := rfl
@[simp] theorem State.withLineA_lineA (s : State) (l : Level) : (s.withLineA l).lineA = l := rfl
@[simp] theorem State.withLineA_lineB (s : State) (l : Level) : (s.withLineA l).lineB = s.lineB := rfl
@[simp] theorem State.withLineA_gpioDir (s : State) (l : Level) : (s.withLineA l).gpioDir = s.gpioDir := rfl
@[simp] theorem State.withLineA_serialOpen (s : State) (l : Level) : (s.withLineA l).serialOpen = s.serialOpen := rfl
@[simp] theorem State.withLineA_serialCfg (s : State) (l : Level) : (s.withLineA l).serialCfg = s.serialCfg := rfl
@[simp] theorem State.withLineA_cfgCache (s : State) (l : Level) : (s.withLineA l).cfgCache = s.cfgCache := rfl
@[simp] theorem State.withLineA_verCache (s : State) (l : Level) : (s.withLineA l).verCache = s.verCache := rfl
@[simp] theorem State.withLineA_inputs (s : State) (l : Level) : (s.withLineA l).inputs = s.inputs := rfl
@[simp] theorem State.withLineA_answers (s : State) (l : Level) : (s.withLineA l).answers = s.answers := rfl
@[simp] theorem State.withLineA_asked (s : State) (l : Level) : (s.withLineA l).asked = s.asked := rfl
@[simp] theorem State.withLineA_draws (s : State) (l : Level) : (s.withLineA l).draws = s.draws := rfl
@[simp] theorem State.withLineA_trace (s : State) (l : Level) : (s.withLineA l).trace = s.trace := rfl
@[simp] theorem State.withLineA_seq (s : State) (l : Level) : (s.withLineA l).seq = s.seq := rfl

@[simp] theorem State.withLineB_params (s : State) (l : Level) : (s.withLineB l).params = s.params := rfl
@[simp] theorem State.withLineB_cmd (s : State) (l : Level) : (s.withLineB l).cmd = s.cmd := rfl
@[simp] theorem State.withLineB_frameIn (s : State) (l : Level) : (s.withLineB l).frameIn = s.frameIn := rfl
@[simp] theorem State.withLineB_cfgIn (s : State) (l : Level) : (s.withLineB l).cfgIn = s.cfgIn := rfl
@[simp] theorem State.withLineB_frameOut (s : State) (l : Level) : (s.withLineB l).frameOut = s.frameOut := rfl
@[simp] theorem State.withLineB_cfgOut (s : State) (l : Level) : (s.withLineB l).cfgOut = s.cfgOut := rfl
@[simp] theorem State.withLineB_verOut (s : State) (l : Level) : (s.withLineB l).verOut = s.verOut := rfl
@[simp] theorem State.withLineB_result (s : State) (l : Level) : (s.withLineB l).result = s.result := rfl
@[simp] theorem State.withLineB_errInfo (s : State) (l : Level) : (s.withLineB l).errInfo = s.errInfo := rfl
@[simp] theorem State.withLineB_mode (s : State) (l : Level) : (s.withLineB l).mode = s.mode := rfl
@[simp] theorem State.withLineB_lineA (s : State) (l : Level) : (s.withLineB l).lineA = s.lineA := rfl
@[simp] theorem State.withLineB_lineB (s : State) (l : Level) : (s.withLineB l).lineB = l := rfl
@[simp] theorem State.withLineB_gpioDir (s : State) (l : Level) : (s.withLineB l).gpioDir = s.gpioDir := rfl
@[simp] theorem State.withLineB_serialOpen (s : State) (l : Level) : (s.withLineB l).serialOpen = s.serialOpen := rfl
@[simp] theorem State.withLineB_serialCfg (s : State) (l : Level) : (s.withLineB l).serialCfg = s.serialCfg := rfl
@[simp] theorem State.withLineB_cfgCache (s : State) (l : Level) : (s.withLineB l).cfgCache = s.cfgCache := rfl
@[simp] theorem State.withLineB_verCache (s : State) (l : Level) : (s.withLineB l).verCache = s.verCache := rfl
@[simp] theorem State.withLineB_inputs (s : State) (l : Level) : (s.withLineB l).inputs = s.inputs := rfl
@[simp] theorem State.withLineB_answers (s : State) (l : Level) : (s.withLineB l).answers = s.answers := rfl
@[simp] theorem State.withLineB_asked (s : State) (l : Level) : (s.withLineB l).asked = s.asked := rfl
@[simp] theorem State.withLineB_draws (s : State) (l : Level) : (s.withLineB l).draws = s.draws := rfl
@[simp] theorem State.withLineB_trace (s : State) (l : Level) : (s.withLineB l).trace = s.trace := rfl
@[simp] theorem State.withLineB_seq (s : State) (l : Level) : (s.withLineB l).seq = s.seq := rfl

@[simp] theorem State.loseLineA_params (s : State) : (s.loseLineA).params = s.params := rfl
@[simp] theorem State.loseLineA_cmd (s : State) : (s.loseLineA).cmd = s.cmd := rfl
@[simp] theorem State.loseLineA_frameIn (s : State) : (s.loseLineA).frameIn = s.frameIn := rfl
@[simp] theorem State.loseLineA_cfgIn (s : State) : (s.loseLineA).cfgIn = s.cfgIn := rfl
@[simp] theorem State.loseLineA_frameOut (s : State) : (s.loseLineA).frameOut = s.frameOut := rfl
@[simp] theorem State.loseLineA_cfgOut (s : State) : (s.loseLineA).cfgOut = s.cfgOut := rfl
@[simp] theorem State.loseLineA_verOut (s : State) : (s.loseLineA).verOut = s.verOut := rfl
@[simp] theorem State.loseLineA_result (s : State) : (s.loseLineA).result = s.result := rfl
@[simp] theorem State.loseLineA_errInfo (s : State) : (s.loseLineA).errInfo = s.errInfo := rfl
@[simp] theorem State.loseLineA_mode (s : State) : (s.loseLineA).mode = s.mode := rfl
@[simp] theorem State.loseLineA_lineA (s : State) : (s.loseLineA).lineA = Config.freeLevel s.draws := rfl
@[simp] theorem State.loseLineA_lineB (s : State) : (s.loseLineA).lineB = s.lineB := rfl
@[simp] theorem State.loseLineA_gpioDir (s : State) : (s.loseLineA).gpioDir = s.gpioDir := rfl
@[simp] theorem State.loseLineA_serialOpen (s : State) : (s.loseLineA).serialOpen = s.serialOpen := rfl
@[simp] theorem State.loseLineA_serialCfg (s : State) : (s.loseLineA).serialCfg = s.serialCfg := rfl
@[simp] theorem State.loseLineA_cfgCache (s : State) : (s.loseLineA).cfgCache = s.cfgCache := rfl
@[simp] theorem State.loseLineA_verCache (s : State) : (s.loseLineA).verCache = s.verCache := rfl
@[simp] theorem State.loseLineA_inputs (s : State) : (s.loseLineA).inputs = s.inputs := rfl
@[simp] theorem State.loseLineA_answers (s : State) : (s.loseLineA).answers = s.answers := rfl
@[simp] theorem State.loseLineA_asked (s : State) : (s.loseLineA).asked = s.asked := rfl
@[simp] theorem State.loseLineA_draws (s : State) : (s.loseLineA).draws = s.draws + 1 := rfl
@[simp] theorem State.loseLineA_trace (s : State) : (s.loseLineA).trace = s.trace := rfl
@[simp] theorem State.loseLineA_seq (s : State) : (s.loseLineA).seq = s.seq := rfl

@[simp] theorem State.loseLineB_params (s : State) : (s.loseLineB).params = s.params := rfl
@[simp] theorem State.loseLineB_cmd (s : State) : (s.loseLineB).cmd = s.cmd := rfl
@[simp] theorem State.loseLineB_frameIn (s : State) : (s.loseLineB).frameIn = s.frameIn := rfl
@[simp] theorem State.loseLineB_cfgIn (s : State) : (s.loseLineB).cfgIn = s.cfgIn := rfl
@[simp] theorem State.loseLineB_frameOut (s : State) : (s.loseLineB).frameOut = s.frameOut := rfl
@[simp] theorem State.loseLineB_cfgOut (s : State) : (s.loseLineB).cfgOut = s.cfgOut := rfl
@[simp] theorem State.loseLineB_verOut (s : State) : (s.loseLineB).verOut = s.verOut := rfl
@[simp] theorem State.loseLineB_result (s : State) : (s.loseLineB).result = s.result := rfl
@[simp] theorem State.loseLineB_errInfo (s : State) : (s.loseLineB).errInfo = s.errInfo := rfl
@[simp] theorem State.loseLineB_mode (s : State) : (s.loseLineB).mode = s.mode := rfl
@[simp] theorem State.loseLineB_lineA (s : State) : (s.loseLineB).lineA = s.lineA := rfl
@[simp] theorem State.loseLineB_lineB (s : State) : (s.loseLineB).lineB = Config.freeLevel s.draws := rfl
@[simp] theorem State.loseLineB_gpioDir (s : State) : (s.loseLineB).gpioDir = s.gpioDir := rfl
@[simp] theorem State.loseLineB_serialOpen (s : State) : (s.loseLineB).serialOpen = s.serialOpen := rfl
@[simp] theorem State.loseLineB_serialCfg (s : State) : (s.loseLineB).serialCfg = s.serialCfg := rfl
@[simp] theorem State.loseLineB_cfgCache (s : State) : (s.loseLineB).cfgCache = s.cfgCache := rfl
@[simp] theorem State.loseLineB_verCache (s : State) : (s.loseLineB).verCache = s.verCache := rfl
@[simp] theorem State.loseLineB_inputs (s : State) : (s.loseLineB).inputs = s.inputs := rfl
@[simp] theorem State.loseLineB_answers (s : State) : (s.loseLineB).answers = s.answers := rfl
@[simp] theorem State.loseLineB_asked (s : State) : (s.loseLineB).asked = s.asked := rfl
@[simp] theorem State.loseLineB_draws (s : State) : (s.loseLineB).draws = s.draws + 1 := rfl
@[simp] theorem State.loseLineB_trace (s : State) : (s.loseLineB).trace = s.trace := rfl
@[simp] theorem State.loseLineB_seq (s : State) : (s.loseLineB).seq = s.seq := rfl

@[simp] theorem State.losePort_params (s : State) : (s.losePort).params = s.params := rfl
@[simp] theorem State.losePort_cmd (s : State) : (s.losePort).cmd = s.cmd := rfl
@[simp] theorem State.losePort_frameIn (s : State) : (s.losePort).frameIn = s.frameIn := rfl
@[simp] theorem State.losePort_cfgIn (s : State) : (s.losePort).cfgIn = s.cfgIn := rfl
@[simp] theorem State.losePort_frameOut (s : State) : (s.losePort).frameOut = s.frameOut := rfl
@[simp] theorem State.losePort_cfgOut (s : State) : (s.losePort).cfgOut = s.cfgOut := rfl
@[simp] theorem State.losePort_verOut (s : State) : (s.losePort).verOut = s.verOut := rfl
@[simp] theorem State.losePort_result (s : State) : (s.losePort).result = s.result := rfl
@[simp] theorem State.losePort_errInfo (s : State) : (s.losePort).errInfo = s.errInfo := rfl
@[simp] theorem State.losePort_mode (s : State) : (s.losePort).mode = s.mode := rfl
@[simp] theorem State.losePort_lineA (s : State) : (s.losePort).lineA = s.lineA := rfl
@[simp] theorem State.losePort_lineB (s : State) : (s.losePort).lineB = s.lineB := rfl
@[simp] theorem State.losePort_gpioDir (s : State) : (s.losePort).gpioDir = s.gpioDir := rfl
@[simp] theorem State.losePort_serialOpen (s : State) : (s.losePort).serialOpen = Config.freeSerialOpen s.draws := rfl
@[simp] theorem State.losePort_serialCfg (s : State) : (s.losePort).serialCfg = Config.freeSerialCfg s.draws := rfl
@[simp] theorem State.losePort_cfgCache (s : State) : (s.losePort).cfgCache = s.cfgCache := rfl
@[simp] theorem State.losePort_verCache (s : State) : (s.losePort).verCache = s.verCache := rfl
@[simp] theorem State.losePort_inputs (s : State) : (s.losePort).inputs = s.inputs := rfl
@[simp] theorem State.losePort_answers (s : State) : (s.losePort).answers = s.answers := rfl
@[simp] theorem State.losePort_asked (s : State) : (s.losePort).asked = s.asked := rfl
@[simp] theorem State.losePort_draws (s : State) : (s.losePort).draws = s.draws + 1 := rfl
@[simp] theorem State.losePort_trace (s : State) : (s.losePort).trace = s.trace := rfl
@[simp] theorem State.losePort_seq (s : State) : (s.losePort).seq = s.seq := rfl

@[simp] theorem State.raise_params (s : State) (w : Bool) (e : Err) : (s.raise w e).params = s.params := rfl
@[simp] theorem State.raise_cmd (s : State) (w : Bool) (e : Err) : (s.raise w e).cmd = s.cmd := rfl
@[simp] theorem State.raise_frameIn (s : State) (w : Bool) (e : Err) : (s.raise w e).frameIn = s.frameIn := rfl
@[simp] theorem State.raise_cfgIn (s : State) (w : Bool) (e : Err) : (s.raise w e).cfgIn = s.cfgIn := rfl
@[simp] theorem State.raise_frameOut (s : State) (w : Bool) (e : Err) : (s.raise w e).frameOut = s.frameOut := rfl
@[simp] theorem State.raise_cfgOut (s : State) (w : Bool) (e : Err) : (s.raise w e).cfgOut = s.cfgOut := rfl
@[simp] theorem State.raise_verOut (s : State) (w : Bool) (e : Err) : (s.raise w e).verOut = s.verOut := rfl
@[simp] theorem State.raise_result (s : State) (w : Bool) (e : Err) : (s.raise w e).result = e.resultCode w := rfl
@[simp] theorem State.raise_errInfo (s : State) (w : Bool) (e : Err) :
    (s.raise w e).errInfo = e.infoAfter s.errInfo := rfl
@[simp] theorem State.raise_mode (s : State) (w : Bool) (e : Err) : (s.raise w e).mode = s.mode := rfl
@[simp] theorem State.raise_lineA (s : State) (w : Bool) (e : Err) : (s.raise w e).lineA = s.lineA := rfl
@[simp] theorem State.raise_lineB (s : State) (w : Bool) (e : Err) : (s.raise w e).lineB = s.lineB := rfl
@[simp] theorem State.raise_gpioDir (s : State) (w : Bool) (e : Err) : (s.raise w e).gpioDir = s.gpioDir := rfl
@[simp] theorem State.raise_serialOpen (s : State) (w : Bool) (e : Err) : (s.raise w e).serialOpen = s.serialOpen := rfl
@[simp] theorem State.raise_serialCfg (s : State) (w : Bool) (e : Err) : (s.raise w e).serialCfg = s.serialCfg := rfl
@[simp] theorem State.raise_cfgCache (s : State) (w : Bool) (e : Err) : (s.raise w e).cfgCache = s.cfgCache := rfl
@[simp] theorem State.raise_verCache (s : State) (w : Bool) (e : Err) : (s.raise w e).verCache = s.verCache := rfl
@[simp] theorem State.raise_inputs (s : State) (w : Bool) (e : Err) : (s.raise w e).inputs = s.inputs := rfl
@[simp] theorem State.raise_answers (s : State) (w : Bool) (e : Err) : (s.raise w e).answers = s.answers := rfl
@[simp] theorem State.raise_asked (s : State) (w : Bool) (e : Err) : (s.raise w e).asked = s.asked := rfl
@[simp] theorem State.raise_draws (s : State) (w : Bool) (e : Err) : (s.raise w e).draws = s.draws := rfl
@[simp] theorem State.raise_trace (s : State) (w : Bool) (e : Err) : (s.raise w e).trace = s.trace := rfl
@[simp] theorem State.raise_seq (s : State) (w : Bool) (e : Err) : (s.raise w e).seq = Sequencer.idle := rfl

@[simp] theorem State.inMode_params (s : State) (m : Mode) : (s.inMode m).params = s.params := rfl
@[simp] theorem State.inMode_cmd (s : State) (m : Mode) : (s.inMode m).cmd = s.cmd := rfl
@[simp] theorem State.inMode_frameIn (s : State) (m : Mode) : (s.inMode m).frameIn = s.frameIn := rfl
@[simp] theorem State.inMode_cfgIn (s : State) (m : Mode) : (s.inMode m).cfgIn = s.cfgIn := rfl
@[simp] theorem State.inMode_frameOut (s : State) (m : Mode) : (s.inMode m).frameOut = s.frameOut := rfl
@[simp] theorem State.inMode_cfgOut (s : State) (m : Mode) : (s.inMode m).cfgOut = s.cfgOut := rfl
@[simp] theorem State.inMode_verOut (s : State) (m : Mode) : (s.inMode m).verOut = s.verOut := rfl
@[simp] theorem State.inMode_result (s : State) (m : Mode) : (s.inMode m).result = s.result := rfl
@[simp] theorem State.inMode_errInfo (s : State) (m : Mode) : (s.inMode m).errInfo = s.errInfo := rfl
@[simp] theorem State.inMode_mode (s : State) (m : Mode) : (s.inMode m).mode = m := rfl
@[simp] theorem State.inMode_lineA (s : State) (m : Mode) :
    (s.inMode m).lineA = bitLevel (m = .powerSaving ∨ m = .program) := rfl
@[simp] theorem State.inMode_lineB (s : State) (m : Mode) :
    (s.inMode m).lineB = bitLevel (m = .wakeup ∨ m = .program) := rfl
@[simp] theorem State.inMode_gpioDir (s : State) (m : Mode) : (s.inMode m).gpioDir = s.gpioDir := rfl
@[simp] theorem State.inMode_serialOpen (s : State) (m : Mode) : (s.inMode m).serialOpen = true := rfl
@[simp] theorem State.inMode_serialCfg (s : State) (m : Mode) :
    (s.inMode m).serialCfg = some (portCfg s.params m) := rfl
@[simp] theorem State.inMode_cfgCache (s : State) (m : Mode) : (s.inMode m).cfgCache = s.cfgCache := rfl
@[simp] theorem State.inMode_verCache (s : State) (m : Mode) : (s.inMode m).verCache = s.verCache := rfl
@[simp] theorem State.inMode_inputs (s : State) (m : Mode) : (s.inMode m).inputs = s.inputs := rfl
@[simp] theorem State.inMode_answers (s : State) (m : Mode) : (s.inMode m).answers = s.answers := rfl
@[simp] theorem State.inMode_asked (s : State) (m : Mode) : (s.inMode m).asked = s.asked := rfl
@[simp] theorem State.inMode_draws (s : State) (m : Mode) : (s.inMode m).draws = s.draws := rfl
@[simp] theorem State.inMode_trace (s : State) (m : Mode) : (s.inMode m).trace = s.trace := rfl
@[simp] theorem State.inMode_seq (s : State) (m : Mode) : (s.inMode m).seq = s.seq := rfl

@[simp] theorem State.ended_params (s : State) (ev : List Event) (rest : List Answer) (v : Byte) :
    (s.ended ev rest v).params = s.params := rfl
@[simp] theorem State.ended_cmd (s : State) (ev : List Event) (rest : List Answer) (v : Byte) :
    (s.ended ev rest v).cmd = s.cmd := rfl
@[simp] theorem State.ended_frameIn (s : State) (ev : List Event) (rest : List Answer) (v : Byte) :
    (s.ended ev rest v).frameIn = s.frameIn := rfl
@[simp] theorem State.ended_cfgIn (s : State) (ev : List Event) (rest : List Answer) (v : Byte) :
    (s.ended ev rest v).cfgIn = s.cfgIn := rfl
@[simp] theorem State.ended_frameOut (s : State) (ev : List Event) (rest : List Answer) (v : Byte) :
    (s.ended ev rest v).frameOut = s.frameOut := rfl
@[simp] theorem State.ended_cfgOut (s : State) (ev : List Event) (rest : List Answer) (v : Byte) :
    (s.ended ev rest v).cfgOut = s.cfgOut := rfl
@[simp] theorem State.ended_verOut (s : State) (ev : List Event) (rest : List Answer) (v : Byte) :
    (s.ended ev rest v).verOut = s.verOut := rfl
@[simp] theorem State.ended_result (s : State) (ev : List Event) (rest : List Answer) (v : Byte) :
    (s.ended ev rest v).result = v := rfl
@[simp] theorem State.ended_errInfo (s : State) (ev : List Event) (rest : List Answer) (v : Byte) :
    (s.ended ev rest v).errInfo = s.errInfo := rfl
@[simp] theorem State.ended_mode (s : State) (ev : List Event) (rest : List Answer) (v : Byte) :
    (s.ended ev rest v).mode = s.mode := rfl
@[simp] theorem State.ended_lineA (s : State) (ev : List Event) (rest : List Answer) (v : Byte) :
    (s.ended ev rest v).lineA = s.lineA := rfl
@[simp] theorem State.ended_lineB (s : State) (ev : List Event) (rest : List Answer) (v : Byte) :
    (s.ended ev rest v).lineB = s.lineB := rfl
@[simp] theorem State.ended_gpioDir (s : State) (ev : List Event) (rest : List Answer) (v : Byte) :
    (s.ended ev rest v).gpioDir = s.gpioDir := rfl
@[simp] theorem State.ended_serialOpen (s : State) (ev : List Event) (rest : List Answer) (v : Byte) :
    (s.ended ev rest v).serialOpen = s.serialOpen := rfl
@[simp] theorem State.ended_serialCfg (s : State) (ev : List Event) (rest : List Answer) (v : Byte) :
    (s.ended ev rest v).serialCfg = s.serialCfg := rfl
@[simp] theorem State.ended_cfgCache (s : State) (ev : List Event) (rest : List Answer) (v : Byte) :
    (s.ended ev rest v).cfgCache = s.cfgCache := rfl
@[simp] theorem State.ended_verCache (s : State) (ev : List Event) (rest : List Answer) (v : Byte) :
    (s.ended ev rest v).verCache = s.verCache := rfl
@[simp] theorem State.ended_inputs (s : State) (ev : List Event) (rest : List Answer) (v : Byte) :
    (s.ended ev rest v).inputs = s.inputs := rfl
@[simp] theorem State.ended_answers (s : State) (ev : List Event) (rest : List Answer) (v : Byte) :
    (s.ended ev rest v).answers = rest := rfl
@[simp] theorem State.ended_asked (s : State) (ev : List Event) (rest : List Answer) (v : Byte) :
    (s.ended ev rest v).asked = s.asked := rfl
@[simp] theorem State.ended_draws (s : State) (ev : List Event) (rest : List Answer) (v : Byte) :
    (s.ended ev rest v).draws = s.draws := rfl
@[simp] theorem State.ended_trace (s : State) (ev : List Event) (rest : List Answer) (v : Byte) :
    (s.ended ev rest v).trace = s.trace ++ ev := rfl
@[simp] theorem State.ended_seq (s : State) (ev : List Event) (rest : List Answer) (v : Byte) :
    (s.ended ev rest v).seq = Sequencer.idle := rfl

@[simp] theorem State.illegalOp_params (s : State) : (s.illegalOp).params = s.params := rfl
@[simp] theorem State.illegalOp_cmd (s : State) : (s.illegalOp).cmd = s.cmd := rfl
@[simp] theorem State.illegalOp_frameIn (s : State) : (s.illegalOp).frameIn = s.frameIn := rfl
@[simp] theorem State.illegalOp_cfgIn (s : State) : (s.illegalOp).cfgIn = s.cfgIn := rfl
@[simp] theorem State.illegalOp_frameOut (s : State) : (s.illegalOp).frameOut = s.frameOut := rfl
@[simp] theorem State.illegalOp_cfgOut (s : State) : (s.illegalOp).cfgOut = s.cfgOut := rfl
@[simp] theorem State.illegalOp_verOut (s : State) : (s.illegalOp).verOut = s.verOut := rfl
@[simp] theorem State.illegalOp_result (s : State) : (s.illegalOp).result = codeIllegalOp := rfl
@[simp] theorem State.illegalOp_errInfo (s : State) : (s.illegalOp).errInfo = s.errInfo := rfl
@[simp] theorem State.illegalOp_mode (s : State) : (s.illegalOp).mode = s.mode := rfl
@[simp] theorem State.illegalOp_lineA (s : State) : (s.illegalOp).lineA = s.lineA := rfl
@[simp] theorem State.illegalOp_lineB (s : State) : (s.illegalOp).lineB = s.lineB := rfl
@[simp] theorem State.illegalOp_gpioDir (s : State) : (s.illegalOp).gpioDir = s.gpioDir := rfl
@[simp] theorem State.illegalOp_serialOpen (s : State) : (s.illegalOp).serialOpen = s.serialOpen := rfl
@[simp] theorem State.illegalOp_serialCfg (s : State) : (s.illegalOp).serialCfg = s.serialCfg := rfl
@[simp] theorem State.illegalOp_cfgCache (s : State) : (s.illegalOp).cfgCache = s.cfgCache := rfl
@[simp] theorem State.illegalOp_verCache (s : State) : (s.illegalOp).verCache = s.verCache := rfl
@[simp] theorem State.illegalOp_inputs (s : State) : (s.illegalOp).inputs = s.inputs := rfl
@[simp] theorem State.illegalOp_answers (s : State) : (s.illegalOp).answers = s.answers := rfl
@[simp] theorem State.illegalOp_asked (s : State) : (s.illegalOp).asked = s.asked := rfl
@[simp] theorem State.illegalOp_draws (s : State) : (s.illegalOp).draws = s.draws := rfl
@[simp] theorem State.illegalOp_trace (s : State) : (s.illegalOp).trace = s.trace := rfl
@[simp] theorem State.illegalOp_seq (s : State) : (s.illegalOp).seq = s.seq := rfl

end Sys2Proof.Machine
end

