-- ==== Sys2Proof/Laws/Codec.lean ====
section
/-! SUPPORT. Small lemmas about decoding, encoding and the register codec: frames and their raw fields, the fields'
places in the bytes, and the code tables' round trips. -/

namespace Sys2Proof.Machine

open Sys2Proof

/-- The raw fields of a frame are those it was built from (R78). -/
theorem ofFrame_toFrame (h : Byte) (c : CfgFields) : CfgFields.ofFrame (c.toFrame h) = c := by
  obtain ⟨ad, pa, ba, ai, ch, fi, pu, wa, fe, po⟩ := c
  simp only [CfgFields.ofFrame, CfgFields.toFrame, CfgFields.mk.injEq]
  refine ⟨?_, ?_, ?_, ?_, trivial, ?_, ?_, ?_, ?_, ?_⟩
  all_goals first
    | (revert pa ba ai; decide)
    | (revert fi pu wa fe po; decide)
    | skip
  · apply BitVec.eq_of_getLsbD_eq
    intro i hi
    simp only [BitVec.getLsbD_append, BitVec.getLsbD_extractLsb']
    by_cases h : i < 8
    · simp [h]
    · have h1 : i - 8 < 8 := by omega
      have h2 : 8 + (i - 8) = i := by omega
      simp only [h, h1, h2, if_false, decide_true, Bool.true_and]

/-- A frame is the one its header and raw fields build (R78). -/
theorem toFrame_ofFrame (f : Frame6) : (CfgFields.ofFrame f).toFrame f.b0 = f := by
  obtain ⟨b0, b1, b2, b3, b4, b5⟩ := f
  simp only [CfgFields.ofFrame, CfgFields.toFrame, Frame6.mk.injEq, true_and]
  refine ⟨?_, ?_, ?_, ?_⟩
  · apply BitVec.eq_of_getLsbD_eq
    intro i hi
    have h1 : ¬ 8 + i < 8 := by omega
    have h2 : 8 + i - 8 = i := by omega
    simp only [BitVec.getLsbD_append, BitVec.getLsbD_extractLsb', hi, h1, h2, if_false, decide_true, Bool.true_and]
  · apply BitVec.eq_of_getLsbD_eq
    intro i hi
    simp only [BitVec.getLsbD_append, BitVec.getLsbD_extractLsb', hi, Nat.zero_add, if_true, decide_true,
        Bool.true_and]
  · revert b3; decide
  · revert b5; decide

theorem toFrame_ofFrame_of_header {f : Frame6} {h : Byte} (hb : f.b0 = h) : (CfgFields.ofFrame f).toFrame h = f :=
    by
  rw [← hb]; exact toFrame_ofFrame f

/-- Every 2-bit code is the code of its mode (R72). -/
theorem code_ofCode (c : BitVec 2) : (Mode.ofCode c).code = c := by revert c; decide

/-- The one reason for which an opcode is no operation (R89 (a)). -/
theorem decodeOp_error (o : Byte) (r : Reject) (hd : decodeOp o = .error r) : r = .unknownOpcode o := by
  unfold decodeOp at hd
  repeat' (split at hd)
  all_goals first
    | (cases hd; rfl)
    | cases hd

/-- The three reasons for which a CMD word is illegal (R89). -/
theorem decodeCmd_error (w : Word) (r : Reject) (hd : decodeCmd w = .error r) :
    (∃ o, r = .unknownOpcode o) ∨ r = .reservedBits ∨ r = .modeOnOtherOp := by
  unfold decodeCmd at hd
  simp only at hd
  split at hd
  · split at hd
    · cases hd
    · split at hd
      · exact .inl ⟨_, decodeOp_error _ _ hd⟩
      · cases hd; simp
  · cases hd; simp

/-- The parity in byte 3 (R78, R81, R90). -/
theorem parity_of_byte (b : Byte) : tableDec parityTable Parity.none (b.extractLsb' 6 2) =
    [Parity.none, .odd, .even, .none].getD (b.toNat / 64) .none := by revert b; decide

/-- The baud rate in byte 3 (R78, R82). -/
theorem baud_of_byte (b : Byte) : tableDec baudTable 9600 (b.extractLsb' 3 3) =
    [1200, 2400, 4800, 9600, 19200, 38400, 57600, 115200].getD (b.toNat / 8 % 8) 0 := by revert b; decide

/-- The air rate in byte 3 (R78, R83). -/
theorem airRate_of_byte (b : Byte) : tableDec airTable 2400 (b.extractLsb' 0 3) =
    [300, 1200, 2400, 4800, 9600, 19200, 19200, 19200].getD (b.toNat % 8) 0 := by revert b; decide

/-- The wake-up time in byte 5 (R78, R85). -/
theorem wakeup_of_byte (b : Byte) : tableDec wakeTable 250 (b.extractLsb' 3 3) = 250 * (b.toNat / 8 % 8 + 1) := by
  revert b; decide

/-- The power in byte 5 (R78, R86). -/
theorem power_of_byte (pt : PowerTable) (b : Byte) : tableDec (powerTable pt) 30 (b.extractLsb' 0 2) =
    (powerLevels pt).getD (b.toNat % 4) 0 := by cases pt <;> (revert b; decide)

theorem getLsbD_seven (b : Byte) : b.getLsbD 7 = decide (b.toNat / 128 = 1) := by revert b; decide

theorem getLsbD_six (b : Byte) : b.getLsbD 6 = decide (b.toNat / 64 % 2 = 1) := by revert b; decide

theorem getLsbD_two (b : Byte) : b.getLsbD 2 = decide (b.toNat / 4 % 2 = 1) := by revert b; decide

/-- The address of bytes 1 and 2 (R52). -/
theorem append_bytes (a b : Byte) : (a ++ b : BitVec 16) = BitVec.ofNat 16 (256 * a.toNat + b.toNat) := by
  apply BitVec.eq_of_toNat_eq
  rw [BitVec.toNat_append, Nat.shiftLeft_eq, ← Nat.shiftLeft_eq, ← Nat.shiftLeft_add_eq_or_of_lt b.isLt]
  simp [Nat.shiftLeft_eq]
  have := a.isLt; have := b.isLt
  omega

/-- Byte 3 from its codes (R130). -/
theorem byte3_of_codes (p : Parity) (b a : BitVec 3) : ((tableEnc 2 parityTable p ++ b ++ a : BitVec 8)) =
    BitVec.ofNat 8 (64 * parityPlace p + 8 * b.toNat + a.toNat) := by
  cases p <;> (revert b a; decide)

/-- Byte 5 from its codes (R130). -/
theorem byte5_of_codes (f p e : Bool) (w : BitVec 3) (q : BitVec 2) :
    (BitVec.ofBool f ++ BitVec.ofBool p ++ w ++ BitVec.ofBool e ++ q : BitVec 8) =
    BitVec.ofNat 8 (128 * bitOf f + 64 * bitOf p + 8 * w.toNat + 4 * bitOf e + q.toNat) := by
  revert f p e w q; decide

/-- The code of a value is its place in the table (R87). -/
theorem tableEnc_toNat (n : Nat) (l : List Nat) (v : Nat) (h : l.length ≤ 2 ^ n) :
    (tableEnc n l v).toNat = placeOf l v := by
  unfold tableEnc placeOf
  split
  · rename_i hv
    have := List.idxOf_lt_length_of_mem hv
    simp; exact Nat.mod_eq_of_lt (by omega)
  · simp

/-- The first code of each air rate is below the duplicates (R83, R131). -/
theorem placeOf_airTable (v : Nat) : placeOf airTable v = placeOf [300, 1200, 2400, 4800, 9600, 19200] v := by
  unfold placeOf airTable
  by_cases h1 : v = 300; · subst h1; rfl
  by_cases h2 : v = 1200; · subst h2; rfl
  by_cases h3 : v = 2400; · subst h3; rfl
  by_cases h4 : v = 4800; · subst h4; rfl
  by_cases h5 : v = 9600; · subst h5; rfl
  by_cases h6 : v = 19200; · subst h6; rfl
  simp [*]

theorem powerTable_eq (pt : PowerTable) : powerTable pt = powerLevels pt := by cases pt <;> rfl

/-- Every raw code gives a canonical value (R123). -/
theorem decodeFields_canonical (pt : PowerTable) (b : Bool) (c : CfgFields) : (decodeFields pt b c).Canonical pt :=
    by
  obtain ⟨ad, pa, ba, ai, ch, fi, pu, wa, fe, po⟩ := c
  refine ⟨?_, ?_, ?_, ?_⟩
  · simp only [decodeFields]; revert ba; decide
  · simp only [decodeFields]; revert ai; decide
  · simp only [decodeFields]; revert wa; decide
  · simp only [decodeFields]; cases pt <;> (revert po; decide)

/-- Encoding never emits the duplicate air codes (R131). -/
theorem airCode_le_five (v : Nat) : (tableEnc 3 airTable v).toNat ≤ 5 := by
  rw [tableEnc_toNat 3 _ _ (by decide), placeOf_airTable]
  unfold placeOf
  split
  · rename_i h; have := List.idxOf_lt_length_of_mem h; simp at this ⊢; omega
  · omega

/-- Encoding never emits parity 0b11 (R131). -/
theorem parityCode_ne_three (p : Parity) : tableEnc 2 parityTable p ≠ 3#2 := by cases p <;> decide

theorem byte3_fields (p : BitVec 2) (b a : BitVec 3) : ((p ++ b ++ a : BitVec 8)).toNat / 64 = p.toNat ∧
   ((p ++ b ++ a : BitVec 8)).toNat % 8 = a.toNat := by revert p b a; decide

theorem baudCode_roundtrip (k : BitVec 3) : tableEnc 3 baudTable (tableDec baudTable 9600 k) = k := by
    revert k; decide

theorem wakeCode_roundtrip (k : BitVec 3) : tableEnc 3 wakeTable (tableDec wakeTable 250 k) = k := by
    revert k; decide

theorem powerCode_roundtrip (pt) (k : BitVec 2) : tableEnc 2 (powerTable pt) (tableDec (powerTable pt) 30 k) = k :=
    by
  cases pt <;> (revert k; decide)

theorem airCode_roundtrip (k : BitVec 3) : tableEnc 3 airTable (tableDec airTable 2400 k) =
    if 6#3 ≤ k then 5#3 else k := by
  revert k; decide

theorem parityCode_roundtrip (k : BitVec 2) : tableEnc 2 parityTable (tableDec parityTable .none k) = if k =
    3#2 then 0#2 else k := by
  revert k; decide

/-- What encoding gives back of decoded raw fields (R150). -/
theorem encodeFields_decodeFields (pt : PowerTable) (b : Bool) (c : CfgFields) :
    encodeFields pt (decodeFields pt b c) = { c with
      parity := if c.parity = 3#2 then 0#2 else c.parity
      air := if 6#3 ≤ c.air then 5#3 else c.air } := by
  simp only [encodeFields, decodeFields, baudCode_roundtrip, wakeCode_roundtrip, powerCode_roundtrip,
      airCode_roundtrip, parityCode_roundtrip]

/-- A frame with a valid header decodes, and its header is kept (R121, R130). -/
theorem decodeCfgFrame_of_header (pt : PowerTable) (f : Frame6) (h : f.b0 = 0xC0#8 ∨ f.b0 = 0xC2#8) :
   decodeCfgFrame pt f = .ok (decodeFields pt (decide (f.b0 = 0xC0#8)) (CfgFields.ofFrame f)) ∧
   (if decide (f.b0 = 0xC0#8) = true then Config.hdrPersist else Config.hdrVolatile) = f.b0 := by
  rcases h with h | h
  · simp [decodeCfgFrame, h, Config.hdrPersist]
  · simp [decodeCfgFrame, h, Config.hdrPersist, Config.hdrVolatile]

/-- A value in the table comes back, any other as the value of code 0 (R87, R151). -/
theorem tableDec_tableEnc (n : Nat) (l canon : List Nat) (d z : Nat) (v : Nat) (hc : ∀ x, x ∈ canon ↔ x ∈ l)
    (hl : l.length ≤ 2 ^ n) (hz : l.getD 0 d = z) :
    tableDec l d (tableEnc n l v) = if v ∈ canon then v else z := by
  unfold tableDec
  rw [tableEnc_toNat n l v hl]
  unfold placeOf
  by_cases h : v ∈ l
  · have h' := (hc v).2 h
    rw [if_pos h, if_pos h']
    have := List.idxOf_lt_length_of_mem h
    simp [List.getD_eq_getElem?_getD, List.getElem?_eq_getElem this, List.getElem_idxOf]
  · have h' := mt (hc v).1 h
    rw [if_neg h, if_neg h', hz]

end Sys2Proof.Machine
end

