-- ==== Sys2Proof/Laws/Ops.lean ====
section
/-! SUPPORT. What the shared operations of Machine/Ops.lean can do, said once: `attempt`, `pollFrom`, `runSeq` over an
append, a whole SET_MODE whose answers are good, and what a run keeps that each of its lines keeps (`runSeq_rel`). -/

namespace Sys2Proof.Machine

open Sys2Proof

/-- The state a run came to. -/
def Run.state : Run → State
  | .done s => s
  | .awaits _ s => s
  | .raised _ s => s

@[simp] theorem Run.state_done (s : State) : (Run.done s).state = s := rfl
@[simp] theorem Run.state_awaits (l : List Action) (s : State) : (Run.awaits l s).state = s := rfl
@[simp] theorem Run.state_raised (e : Err) (s : State) : (Run.raised e s).state = s := rfl

/-- A run that goes on with more lines. -/
def Run.andThen (r : Run) (rest : List Action) : Run :=
  match r with
  | .done t => runSeq rest t
  | .awaits todo t => .awaits (todo ++ rest) t
  | .raised e t => .raised e t

@[simp] theorem runSeq_nil (s : State) : runSeq [] s = .done s := rfl

theorem runSeq_cons (a : Action) (rest : List Action) (s : State) :
    runSeq (a :: rest) s = (runAction a s).andThen rest := by
  cases h : runAction a s <;> simp only [runSeq, Run.andThen, h]

theorem runSeq_append (l₁ l₂ : List Action) (s : State) :
    runSeq (l₁ ++ l₂) s = (runSeq l₁ s).andThen l₂ := by
  induction l₁ generalizing s with
  | nil => rfl
  | cons a rest ih =>
    rw [List.cons_append, runSeq_cons, runSeq_cons]
    cases runAction a s with
    | done t => exact ih t
    | awaits todo t => simp [Run.andThen]
    | raised e t => rfl

theorem runSeq_append_done {l₁ : List Action} {s t : State} (h : runSeq l₁ s = .done t) (l₂ : List Action) :
    runSeq (l₁ ++ l₂) s = runSeq l₂ t := by
  rw [runSeq_append, h]; rfl

theorem runSeq_append_raised {l₁ : List Action} {s t : State} {e : Err} (h : runSeq l₁ s = .raised e t)
    (l₂ : List Action) : runSeq (l₁ ++ l₂) s = .raised e t := by
  rw [runSeq_append, h]; rfl

theorem runSeq_append_awaits {l₁ : List Action} {s t : State} {todo : List Action}
    (h : runSeq l₁ s = .awaits todo t) (l₂ : List Action) :
    runSeq (l₁ ++ l₂) s = .awaits (todo ++ l₂) t := by
  rw [runSeq_append, h]; rfl

theorem runSeq_cons_done {a : Action} {s t : State} (h : runAction a s = .done t) (rest : List Action) :
    runSeq (a :: rest) s = runSeq rest t := by
  rw [runSeq_cons, h]; rfl

theorem runSeq_cons_raised {a : Action} {s t : State} {e : Err} (h : runAction a s = .raised e t)
    (rest : List Action) : runSeq (a :: rest) s = .raised e t := by
  rw [runSeq_cons, h]; rfl

/-! Primitives that answer ok or IoError. -/

theorem attempt_awaits (a : Action) (p : Prim) (f g : State → State) {s : State} (h : s.answers = []) :
    attempt a p f g s = .awaits [a] s := by
  simp [attempt, h]

theorem attempt_ok (a : Action) (p : Prim) (f g : State → State) {s : State} {ans : Answer} {rest : List Answer}
    (h : s.answers = ans :: rest) (ok : ans.fails = false) :
    attempt a p f g s = .done (f ((s.withAnswers rest).record p .ok)) := by
  simp [attempt, h, ok]

theorem attempt_fails (a : Action) (p : Prim) (f g : State → State) {s : State} {ans : Answer} {rest : List Answer}
    (h : s.answers = ans :: rest) (bad : ans.fails = true) :
    attempt a p f g s = .raised .io (g ((s.withAnswers rest).record p .ioError)) := by
  simp [attempt, h, bad]

/-- Everything `attempt` can do. -/
theorem attempt_cases (a : Action) (p : Prim) (f g : State → State) (s : State) :
    (s.answers = [] ∧ attempt a p f g s = .awaits [a] s) ∨
    ∃ ans rest, s.answers = ans :: rest ∧
      ((ans.fails = true ∧ attempt a p f g s = .raised .io (g ((s.withAnswers rest).record p .ioError))) ∨
       (ans.fails = false ∧ attempt a p f g s = .done (f ((s.withAnswers rest).record p .ok)))) := by
  cases h : s.answers with
  | nil => exact .inl ⟨rfl, attempt_awaits a p f g h⟩
  | cons ans rest =>
    refine .inr ⟨ans, rest, rfl, ?_⟩
    cases hf : ans.fails with
    | true => exact .inl ⟨rfl, attempt_fails a p f g h hf⟩
    | false => exact .inr ⟨rfl, attempt_ok a p f g h hf⟩

/-! The wait. -/

theorem pollFrom_nil (n w : Nat) (s : State) :
    pollFrom [] n w s = .awaits [.poll n w] (s.withAnswers []) := rfl

theorem pollFrom_fails {a : Answer} (bad : a.fails = true) (rest : List Answer) (n w : Nat) (s : State) :
    pollFrom (a :: rest) n w s =
      .raised .io ((s.withAnswers rest).record (.gpioRead s.params.pinBusy) .ioError) := by
  simp [pollFrom, bad]

/-- A LOW sample that finds the wait not expired. -/
theorem pollFrom_low {a : Answer} (ha : a.Low) (rest : List Answer) (n w : Nat) (s : State)
    (h1 : 1 ≤ s.params.readySamples) (hx : readyExpired s.params w = false) :
    pollFrom (a :: rest) n w s =
      pollFrom rest 0 (w + 10)
        (((s.withAnswers rest).record (.gpioRead s.params.pinBusy) (.level .low)).delay 10) := by
  obtain ⟨hf, hl⟩ := ha
  have : ¬ s.params.readySamples ≤ 0 := by omega
  simp [pollFrom, hf, hl, hx, this, Config.pollIntervalMs]

/-- A LOW sample that finds the wait expired. -/
theorem pollFrom_low_expired {a : Answer} (ha : a.Low) (rest : List Answer) (n w : Nat) (s : State)
    (h1 : 1 ≤ s.params.readySamples) (hx : readyExpired s.params w = true) :
    pollFrom (a :: rest) n w s =
      .raised .timeoutReady ((s.withAnswers rest).record (.gpioRead s.params.pinBusy) (.level .low)) := by
  obtain ⟨hf, hl⟩ := ha
  have : ¬ s.params.readySamples ≤ 0 := by omega
  simp [pollFrom, hf, hl, hx, this]

/-- The HIGH sample that completes the count. -/
theorem pollFrom_last {a : Answer} (ha : a.Good) (rest : List Answer) (n w : Nat) (s : State)
    (h1 : s.params.readySamples ≤ n + 1) :
    pollFrom (a :: rest) n w s =
      .done (((s.withAnswers rest).record (.gpioRead s.params.pinBusy) (.level .high)).delay 20) := by
  obtain ⟨hf, hl⟩ := ha
  simp [pollFrom, hf, hl, h1, Config.settleMs]

/-- A HIGH sample that does not complete the count and finds the wait not expired. -/
theorem pollFrom_high {a : Answer} (ha : a.Good) (rest : List Answer) (n w : Nat) (s : State)
    (h1 : n + 1 < s.params.readySamples) (hx : readyExpired s.params w = false) :
    pollFrom (a :: rest) n w s =
      pollFrom rest (n + 1) (w + 10)
        (((s.withAnswers rest).record (.gpioRead s.params.pinBusy) (.level .high)).delay 10) := by
  obtain ⟨hf, hl⟩ := ha
  have : ¬ s.params.readySamples ≤ n + 1 := by omega
  simp [pollFrom, hf, hl, hx, this, Config.pollIntervalMs]

/-- What waited may be for the remaining k samples to fit. -/
theorem readyExpired_false_of {p : Params} {w k : Nat} (hk : 2 ≤ k)
    (h : ∀ t, p.readyTimeoutMs = some t → w + 10 * (k - 1) < t + 10) : readyExpired p w = false := by
  unfold readyExpired
  cases ht : p.readyTimeoutMs with
  | none => rfl
  | some t => have := h t ht; simp only [decide_eq_false_iff_not]; omega

theorem waitFits_spec {p : Params} {k : Nat} (h : waitFits p k = true) :
    1 ≤ p.readySamples ∧ ∀ t, p.readyTimeoutMs = some t → 10 * (k - 1) < t + 10 := by
  unfold waitFits at h
  rw [Bool.and_eq_true] at h
  refine ⟨by simpa using h.1, fun t ht => ?_⟩
  have h2 := h.2
  rw [ht] at h2
  simpa using h2

/-- The HIGH samples that end a wait. -/
theorem pollFrom_highs : ∀ (highs rest : List Answer) (n w : Nat) (s : State),
    (∀ a ∈ highs, a.Good) → 1 ≤ highs.length → n + highs.length = s.params.readySamples →
    (∀ t, s.params.readyTimeoutMs = some t → w + 10 * (highs.length - 1) < t + 10) →
    pollFrom (highs ++ rest) n w s =
      .done { s with answers := rest, trace := s.trace ++ highRun s.params highs.length } := by
  intro highs
  induction highs with
  | nil => intro rest n w s _ h1; simp at h1
  | cons a tl ih =>
    intro rest n w s hg _ hn hx
    have ha : a.Good := hg a (by simp)
    cases tl with
    | nil =>
      rw [List.cons_append, pollFrom_last ha _ _ _ _ (by simp at hn; omega)]
      simp [State.delay, State.record, State.withAnswers, highRun, busyHigh, delayed]
    | cons b tl' =>
      rw [List.cons_append, pollFrom_high ha _ _ _ _ (by simp at hn; omega)
        (readyExpired_false_of (k := (a :: b :: tl').length) (by simp) (by simpa using hx))]
      rw [ih rest (n + 1) (w + 10) _ (fun x hx => hg x (by simp_all)) (by simp)
        (by simp at hn ⊢; omega) (by simp at hx ⊢; intro t ht; have := hx t ht; omega)]
      simp [State.delay, State.record, State.withAnswers, highRun, busyHigh, delayed, List.append_assoc]

/-- LOW samples that a wait takes before. -/
theorem pollFrom_lows : ∀ (lows rest : List Answer) (n w : Nat) (s : State),
    (∀ a ∈ lows, a.Low) → 1 ≤ s.params.readySamples →
    (∀ t, s.params.readyTimeoutMs = some t → w + 10 * lows.length < t + 10) → lows ≠ [] →
    pollFrom (lows ++ rest) n w s =
      pollFrom rest 0 (w + 10 * lows.length)
        { s with answers := rest, trace := s.trace ++ lowRun s.params lows.length } := by
  intro lows
  induction lows with
  | nil => intro rest n w s _ _ _ h; exact absurd rfl h
  | cons a tl ih =>
    intro rest n w s hl h1 hx _
    have ha : a.Low := hl a (by simp)
    have hexp : readyExpired s.params w = false := by
      unfold readyExpired
      cases ht : s.params.readyTimeoutMs with
      | none => rfl
      | some t => have := hx t ht; simp at this; simp; omega
    rw [List.cons_append, pollFrom_low ha _ _ _ _ h1 hexp]
    cases tl with
    | nil => simp [State.delay, State.record, State.withAnswers, lowRun, busyLow, delayed]
    | cons b tl' =>
      rw [ih rest 0 (w + 10) _ (fun x hx => hl x (by simp_all)) (by simpa using h1)
        (by intro t ht; have := hx t (by simpa using ht); simp at this ⊢; omega) (by simp)]
      simp [State.delay, State.record, State.withAnswers, lowRun, busyLow, delayed, List.append_assoc]
      congr 1; omega

/-! Any samples of a wait. -/

@[simp] theorem highsAtEnd_nil : highsAtEnd [] = 0 := rfl

/-- The count after one more sample (R104). -/
theorem highsAtEnd_snoc (ws : List Answer) (a : Answer) :
    highsAtEnd (ws ++ [a]) = if a.level = .high then highsAtEnd ws + 1 else 0 := by
  unfold highsAtEnd
  rw [List.reverse_append, List.reverse_singleton, List.singleton_append, List.takeWhile_cons]
  by_cases h : a.level = .high <;> simp [h]

@[simp] theorem sampleRun_nil (p : Params) : sampleRun p [] = [] := rfl

theorem sampleRun_snoc (p : Params) (ws : List Answer) (a : Answer) :
    sampleRun p (ws ++ [a]) = sampleRun p ws ++ [sampled p a, delayed 10] := by
  simp [sampleRun]

/-- A wait goes on up to its last sample if it goes on after it. -/
theorem waitGoesOn_snoc {p : Params} {ws : List Answer} {a : Answer} (h : waitGoesOn p (ws ++ [a])) :
    waitGoesOn p ws ∧ a.fails = false ∧ highsAtEnd (ws ++ [a]) < p.readySamples ∧
      readyExpired p (10 * ws.length) = false := by
  obtain ⟨hf, hk⟩ := h
  refine ⟨⟨fun b hb => hf b (by simp [hb]), fun k hk' => ?_⟩, hf a (by simp), ?_, ?_⟩
  · have := hk k (by simp; omega)
    rwa [List.take_append_of_le_length (by omega)] at this
  · have := (hk ws.length (by simp)).1
    rwa [List.take_of_length_le (by simp)] at this
  · have := (hk ws.length (by simp)).2
    unfold readyExpired
    cases ht : p.readyTimeoutMs with
    | none => rfl
    | some t => rw [ht] at this; simp at this; simp; omega

/-- The answers listed in the state are not what the loop reads. -/
theorem pollFrom_withAnswers (as : List Answer) (n w : Nat) (s : State) (bs : List Answer) :
    pollFrom as n w (s.withAnswers bs) = pollFrom as n w s := by
  cases as <;> rfl

/-- The samples that leave a wait going on: each is followed by the poll delay (R104). -/
theorem pollFrom_goesOn {s : State} (ws : List Answer) :
    ∀ rest : List Answer, waitGoesOn s.params ws →
      pollFrom (ws ++ rest) 0 0 s = pollFrom rest (highsAtEnd ws) (10 * ws.length)
        { s with answers := rest, trace := s.trace ++ sampleRun s.params ws } := by
  induction ws using List.reverseRecOn with
  | nil => intro rest _; simpa [State.withAnswers] using (pollFrom_withAnswers rest 0 0 s rest).symm
  | append_singleton ws a ih =>
    intro rest h
    obtain ⟨h1, hf, hn, hx⟩ := waitGoesOn_snoc h
    rw [List.append_assoc, List.singleton_append, ih (a :: rest) h1]
    rw [highsAtEnd_snoc] at hn
    have hn' : ¬ s.params.readySamples ≤ (if a.level = .high then highsAtEnd ws + 1 else 0) := by omega
    rw [highsAtEnd_snoc, sampleRun_snoc]
    simp [pollFrom, hf, hn', hx, State.record, State.withAnswers, State.delay, Config.pollIntervalMs, sampled, delayed,
      Nat.mul_add]

/-- The sample after those, when the busy read fails (R203). -/
theorem pollFrom_goesOn_fails {s : State} {ws : List Answer} {x : Answer} (rest : List Answer)
    (h : waitGoesOn s.params ws) (hx : x.fails = true) :
    pollFrom (ws ++ x :: rest) 0 0 s = .raised .io { s with
      answers := rest
      trace := s.trace ++ sampleRun s.params ws ++ [⟨.gpioRead s.params.pinBusy, .ioError⟩] } := by
  rw [pollFrom_goesOn ws _ h, pollFrom_fails hx]; rfl

/-- The sample after those, when it completes the ready count, expired or not (R104, R106). -/
theorem pollFrom_goesOn_completes {s : State} {ws : List Answer} {x : Answer} (rest : List Answer)
    (h : waitGoesOn s.params ws) (hx : x.fails = false) (hn : s.params.readySamples ≤ highsAtEnd (ws ++ [x])) :
    pollFrom (ws ++ x :: rest) 0 0 s = .done { s with
      answers := rest, trace := s.trace ++ sampleRun s.params ws ++ [sampled s.params x, delayed 20] } := by
  rw [highsAtEnd_snoc] at hn
  rw [pollFrom_goesOn ws _ h]
  simp [pollFrom, hx, hn, State.record, State.withAnswers, State.delay, Config.settleMs, sampled, delayed]

/-- The sample after those, when it does not and READY_TIMEOUT_MS has been waited (R106). -/
theorem pollFrom_goesOn_expires {s : State} {ws : List Answer} {x : Answer} {t : Nat} (rest : List Answer)
    (h : waitGoesOn s.params ws) (hx : x.fails = false) (hn : highsAtEnd (ws ++ [x]) < s.params.readySamples)
    (ht : s.params.readyTimeoutMs = some t) (hw : t ≤ 10 * ws.length) :
    pollFrom (ws ++ x :: rest) 0 0 s = .raised .timeoutReady { s with
      answers := rest, trace := s.trace ++ sampleRun s.params ws ++ [sampled s.params x] } := by
  rw [highsAtEnd_snoc] at hn
  have hn' : ¬ s.params.readySamples ≤ (if x.level = .high then highsAtEnd ws + 1 else 0) := by omega
  rw [pollFrom_goesOn ws _ h]
  simp [pollFrom, hx, hn', readyExpired, ht, hw, State.record, State.withAnswers, sampled]

/-! A SET_MODE whose answers are good. -/

theorem levelA_eq (m : Mode) : m.levelA = bitLevel (m = .powerSaving ∨ m = .program) := by
  cases m <;> rfl

theorem levelB_eq (m : Mode) : m.levelB = bitLevel (m = .wakeup ∨ m = .program) := by
  cases m <;> rfl

theorem serialCfgOf_eq (p : Params) (m : Mode) : serialCfgOf p m = portCfg p m := rfl

/-- WriteModeLines when its writes succeed. -/
theorem runSeq_writeModeLines {p : Params} {s : State} {pre rest : List Answer} (m : Mode) (hp : s.params = p)
    (h : s.answers = pre ++ rest) (hl : pre.length = lineCost p) (ok : ∀ a ∈ pre, a.fails = false) :
    runSeq (writeModeLines p m) s =
      .done { s with
        lineA := bitLevel (m = .powerSaving ∨ m = .program)
        lineB := bitLevel (m = .wakeup ∨ m = .program)
        answers := rest
        trace := s.trace ++ lineEvents p m } := by
  subst hp
  unfold lineCost at hl
  cases ho : s.params.modeWriteOrder with
  | atomic =>
    rw [ho] at hl
    obtain ⟨a, rfl⟩ := List.length_eq_one_iff.mp hl
    have ha := ok a (by simp)
    simp [writeModeLines, lineEvents, ho, runSeq, runAction, attempt, h, ha, State.withLineA, State.withLineB,
      State.record, State.withAnswers, levelA_eq, levelB_eq]
  | aThenB =>
    rw [ho] at hl
    obtain ⟨a, b, rfl⟩ := List.length_eq_two.mp hl
    have ha := ok a (by simp)
    have hb := ok b (by simp)
    simp [writeModeLines, lineEvents, ho, runSeq, runAction, attempt, h, ha, hb, State.withLineA, State.withLineB,
      State.record, State.withAnswers, levelA_eq, levelB_eq]
  | bThenA =>
    rw [ho] at hl
    obtain ⟨a, b, rfl⟩ := List.length_eq_two.mp hl
    have ha := ok a (by simp)
    have hb := ok b (by simp)
    simp [writeModeLines, lineEvents, ho, runSeq, runAction, attempt, h, ha, hb, State.withLineA, State.withLineB,
      State.record, State.withAnswers, levelA_eq, levelB_eq]

/-- ReconfigureSerial when its primitives succeed. -/
theorem runSeq_reconfigureSerial {p : Params} {s : State} {pre rest : List Answer} (m : Mode) (hp : s.params = p)
    (h : s.answers = pre ++ rest) (hl : pre.length = if s.serialOpen then 2 else 1)
    (ok : ∀ a ∈ pre, a.fails = false) :
    runSeq (reconfigureSerial m) s =
      .done { s with
        serialOpen := true
        serialCfg := some (portCfg p m)
        answers := rest
        trace := s.trace ++ portEvents p s.serialOpen m } := by
  subst hp
  cases ho : s.serialOpen with
  | true =>
    rw [ho] at hl
    obtain ⟨a, b, rfl⟩ := List.length_eq_two.mp (by simpa using hl)
    have ha := ok a (by simp)
    have hb := ok b (by simp)
    simp [reconfigureSerial, portEvents, ho, runSeq, runAction, attempt, h, ha, hb, State.record, State.withAnswers,
      serialCfgOf_eq]
  | false =>
    rw [ho] at hl
    obtain ⟨a, rfl⟩ := List.length_eq_one_iff.mp (by simpa using hl)
    have ha := ok a (by simp)
    simp [reconfigureSerial, portEvents, ho, runSeq, runAction, attempt, h, ha, State.record, State.withAnswers,
      serialCfgOf_eq]

/-- The wait of a SET_MODE or RESET_MODULE when every sample is HIGH. -/
theorem runSeq_waitReady {p : Params} {s : State} {highs rest : List Answer} (hp : s.params = p)
    (h : s.answers = highs ++ rest) (hl : highs.length = p.readySamples) (hg : ∀ a ∈ highs, a.Good)
    (fit : waitFits p p.readySamples = true) :
    runSeq waitReadyLines s =
      .done { s with answers := rest, trace := s.trace ++ highRun p p.readySamples } := by
  subst hp
  obtain ⟨h1, h2⟩ := waitFits_spec fit
  have := pollFrom_highs highs rest 0 0 s hg (by omega) (by omega) (by simpa [hl] using h2)
  rw [waitReadyLines, runSeq_cons_done (t := _) (by rw [runAction, h]; exact this), runSeq_nil, hl]

/-- SET_MODE up to its wait, when its line writes succeed. -/
theorem runSeq_linesCommit {p : Params} {s : State} {pre rest : List Answer} (m : Mode) (hp : s.params = p)
    (h : s.answers = pre ++ rest) (hl : pre.length = lineCost p) (ok : ∀ a ∈ pre, a.fails = false) :
    runSeq (writeModeLines p m ++ [.commitMode m]) s =
      .done { s.inMode m with
        serialOpen := s.serialOpen
        serialCfg := s.serialCfg
        answers := rest
        trace := s.trace ++ lineEvents p m } := by
  rw [runSeq_append_done (runSeq_writeModeLines m hp h hl ok)]; rfl

/-- SET_MODE up to ReconfigureSerial, when its answers are good. -/
theorem runSeq_linesWait {p : Params} {s : State} {pre rest : List Answer} (m : Mode) (hp : s.params = p)
    (h : s.answers = pre ++ rest) (hl : pre.length = lineCost p + p.readySamples)
    (hg : ∀ a ∈ pre, a.Good) (fit : waitFits p p.readySamples = true) :
    runSeq (writeModeLines p m ++ [.commitMode m] ++ waitReadyLines) s =
      .done { s.inMode m with
        serialOpen := s.serialOpen
        serialCfg := s.serialCfg
        answers := rest
        trace := s.trace ++ (lineEvents p m ++ highRun p p.readySamples) } := by
  obtain ⟨l, w, rfl, hl1⟩ : ∃ l w, pre = l ++ w ∧ l.length = lineCost p :=
    ⟨pre.take (lineCost p), pre.drop _, (List.take_append_drop _ _).symm, by simp; omega⟩
  have hl2 : w.length = p.readySamples := by simp at hl; omega
  rw [runSeq_append_done (runSeq_linesCommit (pre := l) (rest := w ++ rest) m hp (by simpa using h) hl1
      (fun a ha => (hg a (by simp [ha])).1)),
    runSeq_waitReady (highs := w) (rest := rest) (by exact hp) (by simp) hl2 (fun a ha => hg a (by simp [ha])) fit]
  simp [State.inMode]

/-- The whole of SET_MODE when its answers are good. -/
theorem runSeq_setModeLines {p : Params} {s : State} {pre rest : List Answer} (m : Mode) (hp : s.params = p)
    (h : s.answers = pre ++ rest) (hl : pre.length = setModeCost p s.serialOpen)
    (hg : ∀ a ∈ pre, a.Good) (fit : waitFits p p.readySamples = true) :
    runSeq (setModeLines p m) s =
      .done { s.inMode m with
        answers := rest
        trace := s.trace ++ setModeEvents p s.serialOpen m } := by
  unfold setModeCost at hl
  obtain ⟨l, c, rfl, hl1⟩ : ∃ l c, pre = l ++ c ∧ l.length = lineCost p + p.readySamples :=
    ⟨pre.take (lineCost p + p.readySamples), pre.drop _, (List.take_append_drop _ _).symm, by simp; omega⟩
  have hl2 : c.length = if s.serialOpen then 2 else 1 := by simp at hl; omega
  unfold setModeLines
  rw [runSeq_append_done (runSeq_linesWait (pre := l) (rest := c ++ rest) m hp (by simpa using h) hl1
      (fun a ha => hg a (by simp [ha])) fit),
    runSeq_reconfigureSerial (pre := c) (rest := rest) m (by exact hp) (by simp) (by simpa using hl2)
      (fun a ha => (hg a (by simp [ha])).1)]
  subst hp
  simp [State.inMode, setModeEvents, List.append_assoc]

/-! Bytes that arrive. -/

/-- An operation that reads takes the bytes that arrive and goes on (R161). -/
theorem deliver_reading {s : State} {todo : List Action} (h : s.seq.todo = .receive :: todo) (f : Frame6) :
    s.deliver f = conclude s.seq.wrap (runSeq todo
      ((s.record (.serialRead s.params.port 6 Config.readTimeoutMs) (.bytes f)).hold (.bytes f))) := by
  simp only [State.deliver, h]

/-- With no SerialRead under way, bytes that arrive change nothing of the block (R30). -/
theorem deliver_not_reading {s : State} (h : ∀ todo, s.seq.todo ≠ .receive :: todo) (f : Frame6) :
    s.deliver f = s := by
  unfold State.deliver
  split
  · rename_i todo hr; exact absurd hr (h todo)
  · rfl

/-- At the SerialRead of READ_CFG or READ_VER, with good answers for the return to Normal: what is left is to take up the
response (R160, R164). -/
theorem deliver_restOfRead {s : State} {post rest : List Answer} {accept : Action} {h : Held} (f : Frame6)
    (hs : s.seq = ⟨restOfRead s.params accept, false, h⟩) (fit : waitFits s.params s.params.readySamples = true)
    (ha : s.answers = post ++ rest) (hl : post.length = setModeCost s.params s.serialOpen)
    (hg : ∀ x ∈ post, x.Good) :
    s.deliver f = conclude false (runSeq [accept, .resultOk] { s.inMode .normal with
      answers := rest
      trace := s.trace ++ ([received s.params f] ++ setModeEvents s.params s.serialOpen .normal)
      seq := { s.seq with held := .bytes f } }) := by
  have ht : s.seq.todo = .receive :: (.giveUpEarly :: (setModeLines s.params .normal ++ [accept, .resultOk])) := by
    rw [hs]; simp [restOfRead]
  have hw : s.seq.wrap = false := by rw [hs]
  have k := runSeq_setModeLines (p := s.params) (pre := post) (rest := rest)
    (s := (s.record (.serialRead s.params.port 6 Config.readTimeoutMs) (.bytes f)).hold (.bytes f)) .normal rfl ha hl
    hg fit
  rw [deliver_reading ht, hw, runSeq_cons_done (by simp [runAction]; rfl), runSeq_append_done k]
  congr 2
  simp [State.inMode, State.record, State.hold, received, Config.readTimeoutMs]

/-! What each line keeps, a whole run keeps. -/

/-- A relation that every line of a kind keeps, a run of such lines keeps. -/
theorem runSeq_rel (A : Action → Prop) (R : State → State → Prop) (refl : ∀ s, R s s)
    (trans : ∀ s t u, R s t → R t u → R s u) (line : ∀ a, A a → ∀ s, R s (runAction a s).state) :
    ∀ (l : List Action) (s : State), (∀ a ∈ l, A a) → R s (runSeq l s).state := by
  intro l
  induction l with
  | nil => intro s _; exact refl s
  | cons a rest ih =>
    intro s hA
    have h1 := line a (hA a (by simp)) s
    rw [runSeq_cons]
    cases hr : runAction a s with
    | done t =>
      rw [hr] at h1
      exact trans _ _ _ h1 (ih t (fun b hb => hA b (by simp [hb])))
    | awaits todo t => rw [hr] at h1; exact h1
    | raised e t => rw [hr] at h1; exact h1

/-! What an operation puts out. -/

/-- With an answer listed nothing is drawn of the oracle. -/
theorem supply_listed {s : State} (h : s.answers ≠ []) : s.supply = s := by
  unfold State.supply
  split
  · rename_i hn; exact absurd hn h
  · rfl

/-- With none listed one answer is drawn. -/
theorem supply_drawn {s : State} (h : s.answers = []) :
    s.supply = { s with answers := [Config.oracle s.asked], asked := s.asked + 1 } := by
  unfold State.supply
  rw [h]

/-- Where no operation stands before the word, it is no part of one. -/
theorem linesOf_outside {s : State} {w : FetchWord}
    (h : ∀ a todo, s.seq.todo = a :: todo → a.standsAt s w = false) : s.linesOf w = 0 := by
  unfold State.linesOf
  cases ht : s.seq.todo with
  | nil => cases w <;> rfl
  | cons a todo => cases w <;> simp [h a todo ht]

/-- Where no operation stands before it, a word is not put out: nothing changes (R240). -/
theorem perform_outside {s : State} {w : FetchWord}
    (h : ∀ a todo, s.seq.todo = a :: todo → a.standsAt s w = false) : s.perform w = s := by
  simp only [State.perform, linesOf_outside h, if_pos]

/-- Putting a word out performs the lines that make it up, and the operation stands after them. -/
theorem perform_part {s : State} {w : FetchWord} (h : s.linesOf w ≠ 0) :
    s.perform w = conclude s.seq.wrap ((runSeq (s.seq.todo.take (s.linesOf w)) s.supply).standsBefore
      (s.seq.todo.drop (s.linesOf w))) := by
  simp only [State.perform, if_neg h]

theorem mem_take_length_takeWhile {α : Type} {p : α → Bool} {l : List α} {a : α}
    (h : a ∈ l.take (l.takeWhile p).length) : p a = true := by
  rw [← List.prefix_iff_eq_take.1 (List.takeWhile_prefix p)] at h
  exact List.mem_takeWhile_imp h

/-- Each line that makes up a word stands before it. -/
theorem standsAt_of_mem_linesOf {s : State} {w : FetchWord} {a : Action} (h : a ∈ s.seq.todo.take (s.linesOf w)) :
    a.standsAt s w = true := by
  unfold State.linesOf at h
  have one : a ∈ s.seq.todo.take ((s.seq.todo.take 1).takeWhile (·.standsAt s w)).length → a.standsAt s w = true := by
    intro h
    refine mem_take_length_takeWhile (p := (·.standsAt s w)) (l := s.seq.todo.take 1) ?_
    have hl : ((s.seq.todo.take 1).takeWhile (·.standsAt s w)).length ≤ 1 :=
      (List.takeWhile_prefix _).length_le.trans (by simp)
    rwa [List.take_take, Nat.min_eq_left hl]
  cases w with
  | lines c => exact mem_take_length_takeWhile (p := fun b => Action.standsAt s b (.lines c)) h
  | cmd c => exact one h
  | tx b => exact one h
  | rx f => exact one h

/-- A frame is put out by the one SerialWrite of the operation that stands before it. -/
theorem perform_frame {s : State} {a : Action} {todo : List Action} {bytes : List Byte} (h : s.seq.todo = a :: todo)
    (ha : a.standsAt s (.tx bytes) = true) :
    s.perform (.tx bytes) = conclude s.seq.wrap ((runAction a s.supply).standsBefore todo) := by
  have hn : s.linesOf (.tx bytes) = 1 := by simp [State.linesOf, h, ha]
  rw [perform_part (by omega), hn, h]
  simp only [List.take_succ_cons, List.take_zero, List.drop_succ_cons, List.drop_zero, runSeq]
  cases runAction a s.supply <;> simp [Run.standsBefore]

theorem standsAt_writeModeLines {s : State} {p : Params} {m : Mode} {a : Action} (h : a ∈ writeModeLines p m) :
    a.standsAt s (.lines m.code) = true := by
  unfold writeModeLines at h
  split at h <;> simp at h <;> first
    | (subst h; simp [Action.standsAt])
    | (rcases h with rfl | rfl <;> simp [Action.standsAt])

/-- A code is put out by the line writes of the SET_MODE that stands before them; it goes on with MODE_STATE (R101). -/
theorem perform_code {s : State} {m : Mode} {todo : List Action} {writes : List Action}
    (h : s.seq.todo = writes ++ .commitMode m :: todo) (hw : ∀ a ∈ writes, a.standsAt s (.lines m.code) = true)
    (hne : writes ≠ []) :
    s.perform (.lines m.code) =
      conclude s.seq.wrap ((runSeq writes s.supply).standsBefore (.commitMode m :: todo)) := by
  have hn : s.linesOf (.lines m.code) = writes.length := by
    simp only [State.linesOf, h]
    rw [List.takeWhile_append_of_pos hw]
    simp [Action.standsAt]
  rw [perform_part (by rw [hn]; simpa using hne), hn, h]
  simp

/-- What putting a word out keeps: anything that drawing an answer, the lines that make it up, a new place in the
operation and a raise keep. -/
theorem perform_rel (R : State → State → Prop) (refl : ∀ s, R s s) (trans : ∀ s t u, R s t → R t u → R s u)
    (w : FetchWord) (s : State) (sup : R s s.supply)
    (line : ∀ a, a.standsAt s w = true → ∀ t, R t (runAction a t).state) (seq : ∀ t q, R t { t with seq := q })
    (raise : ∀ t e, (∃ l u, (∀ a ∈ l, a.standsAt s w = true) ∧ runSeq l u = .raised e t) → R t (t.raise s.seq.wrap e)) :
    R s (s.perform w) := by
  by_cases h : s.linesOf w = 0
  · simp only [State.perform, h, if_pos]; exact refl s
  · rw [perform_part h]
    have hA : ∀ a ∈ s.seq.todo.take (s.linesOf w), a.standsAt s w = true := fun a ha => standsAt_of_mem_linesOf ha
    have h1 := runSeq_rel (fun a => a.standsAt s w = true) R refl trans line _ s.supply hA
    cases hr : runSeq (s.seq.todo.take (s.linesOf w)) s.supply with
    | done t => rw [hr] at h1; exact trans _ _ _ (trans _ _ _ sup h1) (seq _ _)
    | awaits td t => rw [hr] at h1; exact trans _ _ _ (trans _ _ _ sup h1) (seq _ _)
    | raised e t => rw [hr] at h1; exact trans _ _ _ (trans _ _ _ sup h1) (raise t e ⟨_, _, hA, hr⟩)

/-- What the loop of WAIT_READY keeps: anything that recording an event and taking an answer keeps. -/
theorem pollFrom_rel (R : State → State → Prop) (trans : ∀ s t u, R s t → R t u → R s u)
    (ans : ∀ s as, R s (s.withAnswers as)) (rec : ∀ s p r, R s (s.record p r)) :
    ∀ (as : List Answer) (n w : Nat) (s : State), R s (pollFrom as n w s).state := by
  intro as
  induction as with
  | nil => intro n w s; exact ans s []
  | cons a rest ih =>
    intro n w s
    simp only [pollFrom]
    have h0 := ans s rest
    split
    · exact trans _ _ _ h0 (rec _ _ _)
    · have h1 := trans _ _ _ h0 (rec (s.withAnswers rest) (.gpioRead s.params.pinBusy) (.level a.level))
      generalize (if a.level = .high then n + 1 else 0) = n1
      split
      · exact trans _ _ _ h1 (rec _ _ _)
      · split
        · exact h1
        · exact trans _ _ _ (trans _ _ _ h1 (rec _ _ _)) (ih _ _ _)

/-- What a primitive keeps that may fail: anything that recording an event, taking an answer and its two updates keep. -/
theorem attempt_rel (R : State → State → Prop) (refl : ∀ s, R s s) (trans : ∀ s t u, R s t → R t u → R s u)
    (ans : ∀ s as, R s (s.withAnswers as)) (rec : ∀ s p r, R s (s.record p r))
    (a : Action) (p : Prim) (f g : State → State) (hf : ∀ t, R t (f t)) (hg : ∀ t, R t (g t)) (s : State) :
    R s (attempt a p f g s).state := by
  rcases attempt_cases a p f g s with ⟨_, h⟩ | ⟨x, rest, _, ⟨_, h⟩ | ⟨_, h⟩⟩
  · rw [h]; exact refl s
  · rw [h]; exact trans _ _ _ (trans _ _ _ (ans s rest) (rec _ _ _)) (hg _)
  · rw [h]; exact trans _ _ _ (trans _ _ _ (ans s rest) (rec _ _ _)) (hf _)

end Sys2Proof.Machine
end

