-- ==== Sys2Proof/Laws/Lines.lean ====
section
/-! SUPPORT. Whole-machine engines: which errors and which waits a run can end in, what every line, operation and
step
keeps (`runAction_rel`, `runOp_rel`, `step_rel`), and changes of the state that lines commute with (`runSeq_map`).
-/

namespace Sys2Proof.Machine

open Sys2Proof

/-- Not a line that takes up a response. -/
def NoAccept (a : Action) : Prop := a ≠ .acceptCfg ∧ a ≠ .acceptVer

/-- Not a line that sets a direction. -/
def NoDir (a : Action) : Prop := a ≠ .setDirBusy ∧ a ≠ .setDirModeA ∧ a ≠ .setDirModeB

/-- An error that a run raises is one its lines raise. -/
theorem runSeq_raised_of (A : Action → Prop) (E : Err → Prop) (line : ∀ a, A a → ∀ s e t, runAction a s =
    .raised e t → E e) :
    ∀ (l : List Action) (s : State) (e : Err) (t : State), (∀ a ∈ l, A a) → runSeq l s = .raised e t → E e := by
  intro l
  induction l with
  | nil => intro s e t _ h; cases h
  | cons a rest ih =>
    intro s e t hA h
    rw [runSeq_cons] at h
    cases hr : runAction a s with
    | done u => rw [hr] at h; exact ih u e t (fun b hb => hA b (by simp [hb])) h
    | awaits todo u => rw [hr] at h; cases h
    | raised e' u => rw [hr] at h; cases h; exact line a (hA a (by simp)) s _ _ hr

theorem attempt_raised_io {a p f g s e t} (h : attempt a p f g s = .raised e t) : e = .io := by
  rcases attempt_cases a p f g s with ⟨_, h'⟩ | ⟨x, rest, _, ⟨_, h'⟩ | ⟨_, h'⟩⟩ <;> rw [h'] at h <;> cases h
  rfl

/-- The wait raises IoError or TimeoutError(READY) (R104). -/
theorem pollFrom_raised_of : ∀ (as : List Answer) n w s e t, pollFrom as n w s = .raised e t → e = .io ∨ e =
    .timeoutReady := by
  intro as
  induction as with
  | nil => intro n w s e t h; cases h
  | cons a rest ih =>
    intro n w s e t h
    simp only [pollFrom] at h
    split at h
    · cases h; simp
    · generalize (if a.level = .high then n + 1 else 0) = n1 at h
      split at h
      · cases h
      · split at h
        · cases h; simp
        · exact ih _ _ _ _ _ h

/-- Only the lines that take up a response raise ProtocolError (R204). -/
theorem runAction_raised_of (a : Action) (ha : NoAccept a) (s e t) (h : runAction a s = .raised e t) : ∀ b,
    e ≠ .protocol b := by
  intro b hb; subst hb
  cases a <;> simp only [runAction, sendBytes] at h
  all_goals first
    | (have := attempt_raised_io h; cases this)
    | (have := pollFrom_raised_of _ _ _ _ _ _ h; simp at this)
    | skip
  · cases h
  · split at h
    · have := attempt_raised_io h; cases this
    · cases h
  · unfold readResponse at h; simp only at h; repeat' (split at h)
    all_goals cases h
  · split at h
    · cases h
    · cases h
  · exact absurd rfl ha.1
  · exact absurd rfl ha.2
  · cases h

/-- What reading a response keeps. -/
theorem readResponse_rel (R : State → State → Prop) (refl : ∀ s, R s s) (trans : ∀ s t u, R s t → R t u → R s u)
    (ans : ∀ s as, R s (s.withAnswers as)) (rec : ∀ s p r, R s (s.record p r)) (hold : ∀ s h, R s (s.hold h)) (s :
        State) :
    R s (readResponse s).state := by
  unfold readResponse
  simp only
  split
  · exact refl s
  · rename_i a rest _
    have h0 := ans s rest
    split
    · exact trans _ _ _ h0 (rec _ _ _)
    · split
      · exact trans _ _ _ (trans _ _ _ h0 (rec _ _ _)) (hold _ _)
      · exact trans _ _ _ (trans _ _ _ h0 (rec _ _ _)) (hold _ _)

/-- What every line keeps: anything that each single update keeps. The lines that write only in one place (the
directions, the caches) give that place as a premise. -/
theorem runAction_rel (a : Action) (R : State → State → Prop) (refl : ∀ s, R s s) (trans : ∀ s t u, R s t → R t u →
    R s u)
    (ans : ∀ s as, R s (s.withAnswers as)) (rec : ∀ s p r, R s (s.record p r))
    (hold : ∀ s h, R s (s.hold h))
    (d1 : a = .setDirBusy → ∀ s : State, R s { s with gpioDir := { s.gpioDir with busy := .input } })
    (d2 : a = .setDirModeA → ∀ s : State, R s { s with gpioDir := { s.gpioDir with modeA := .output } })
    (d3 : a = .setDirModeB → ∀ s : State, R s { s with gpioDir := { s.gpioDir with modeB := .output } })
    (la : ∀ s l, R s (s.withLineA l)) (lb : ∀ s l, R s (s.withLineB l)) (fa : ∀ s, R s s.loseLineA) (fb : ∀ s,
        R s s.loseLineB)
    (md : ∀ (s : State) m, R s { s with mode := m })
    (cl : ∀ s : State, R s { s with serialOpen := false })
    (op : ∀ (s : State) m, R s { s with serialOpen := true, serialCfg := some (serialCfgOf s.params m) })
    (lp : ∀ s, R s s.losePort) (res : ∀ s, R s (s.withResult codeOk))
    (ac : a = .acceptCfg → ∀ (s : State) f c, decodeCfgFrame s.params.powerTable f = .ok c →
        R s { s with cfgOut := c, cfgCache := some c })
    (av : a = .acceptVer → ∀ (s : State) v, R s { s with verOut := v, verCache := some v })
    (s : State) : R s (runAction a s).state := by
  have A : ∀ p f g, (∀ t, R t (f t)) → (∀ t, R t (g t)) → R s (attempt a p f g s).state := fun p f g hf hg =>
    attempt_rel R refl trans ans rec a p f g hf hg s
  cases a with
  | setDirBusy => exact A _ _ _ (d1 rfl) refl
  | setDirModeA => exact A _ _ _ (d2 rfl) refl
  | setDirModeB => exact A _ _ _ (d3 rfl) refl
  | writeBoth m => exact A _ _ _ (fun t => trans _ _ _ (la _ _) (lb _ _)) (fun t => trans _ _ _ (fa _) (fb _))
  | writeA m => exact A _ _ _ (fun t => la _ _) fa
  | writeB m => exact A _ _ _ (fun t => lb _ _) fb
  | commitMode m => exact md _ _
  | poll n w => exact pollFrom_rel R trans ans rec _ _ _ _
  | closePort =>
    simp only [runAction]
    split
    · exact A _ _ _ cl lp
    · exact refl s
  | openPort m =>
    simp only [runAction]
    rcases attempt_cases (.openPort m) (.serialOpen s.params.port (serialCfgOf s.params m))
      (fun t => { t with serialOpen := true, serialCfg := some (serialCfgOf s.params m) }) State.losePort s with
          ⟨_, h⟩ | ⟨x, rest, _, ⟨_, h⟩ | ⟨_, h⟩⟩
    · rw [h]; exact refl s
    · rw [h]; exact trans _ _ _ (trans _ _ _ (ans s rest) (rec _ _ _)) (lp _)
    · rw [h]; exact trans _ _ _ (trans _ _ _ (ans s rest) (rec _ _ _)) (op _ m)
  | send b => exact A _ _ _ refl refl
  | sendCfgIn => exact A _ _ _ refl refl
  | receive => exact readResponse_rel R refl trans ans rec hold s
  | giveUpEarly => simp only [runAction]; split <;> exact refl s
  | acceptCfg =>
    simp only [runAction, acceptHeldCfg, acceptCfgResponse]
    split
    · exact refl s
    · exact refl s
    · split
      · rename_i c hc; exact ac rfl s _ c hc
      · exact refl s
  | acceptVer =>
    simp only [runAction, acceptHeldVer, acceptVerResponse]
    split
    · exact refl s
    · exact refl s
    · split
      · exact av rfl s _
      · exact refl s
  | resultOk => exact res s

/-- A view of the state that each single update leaves alone, every line leaves alone. -/
theorem runAction_view (a : Action) {α : Type} (v : State → α)
    (ans : ∀ s as, v (s.withAnswers as) = v s) (rec : ∀ s p r, v (s.record p r) = v s)
    (hold : ∀ s h, v (s.hold h) = v s)
    (d1 : a = .setDirBusy → ∀ s : State, v { s with gpioDir := { s.gpioDir with busy := .input } } = v s)
    (d2 : a = .setDirModeA → ∀ s : State, v { s with gpioDir := { s.gpioDir with modeA := .output } } = v s)
    (d3 : a = .setDirModeB → ∀ s : State, v { s with gpioDir := { s.gpioDir with modeB := .output } } = v s)
    (la : ∀ s l, v (s.withLineA l) = v s) (lb : ∀ s l, v (s.withLineB l) = v s) (fa : ∀ s, v s.loseLineA = v s)
        (fb : ∀ s, v s.loseLineB = v s)
    (md : ∀ (s : State) m, v { s with mode := m } = v s)
    (cl : ∀ s : State, v { s with serialOpen := false } = v s)
    (op : ∀ (s : State) m, v { s with serialOpen := true, serialCfg := some (serialCfgOf s.params m) } = v s)
    (lp : ∀ s, v s.losePort = v s) (res : ∀ s, v (s.withResult codeOk) = v s)
    (ac : a = .acceptCfg → ∀ (s : State) f c, decodeCfgFrame s.params.powerTable f = .ok c →
        v { s with cfgOut := c, cfgCache := some c } = v s)
    (av : a = .acceptVer → ∀ (s : State) w, v { s with verOut := w, verCache := some w } = v s)
    (s : State) : v (runAction a s).state = v s :=
  runAction_rel a (fun s t => v t = v s) (fun _ => rfl) (fun _ _ _ a b => Eq.trans b a) ans rec hold d1 d2 d3 la lb
      fa fb md cl op lp res ac av s

/-- Only a SerialRead changes what was read. -/
theorem runAction_held (a : Action) (h : a ≠ .receive) (s : State) :
    (runAction a s).state.seq.held = s.seq.held := by
  have A : ∀ p f g, (∀ t : State, (f t : State).seq.held = t.seq.held) →
      (∀ t : State, (g t : State).seq.held = t.seq.held) → (attempt a p f g s).state.seq.held = s.seq.held :=
    fun p f g hf hg => attempt_rel (fun s t => t.seq.held = s.seq.held) (fun _ => rfl) (fun _ _ _ a b => Eq.trans b a)
      (fun _ _ => rfl) (fun _ _ _ => rfl) a p f g hf hg s
  cases a
  case receive => exact absurd rfl h
  case poll n w =>
    exact pollFrom_rel (fun s t => t.seq.held = s.seq.held) (fun _ _ _ a b => Eq.trans b a) (fun _ _ => rfl)
      (fun _ _ _ => rfl) _ _ _ _
  case closePort =>
    simp only [runAction]
    split
    · exact A _ _ _ (fun _ => rfl) (fun _ => rfl)
    · rfl
  case giveUpEarly => simp only [runAction]; split <;> rfl
  case acceptCfg => simp only [runAction, acceptHeldCfg, acceptCfgResponse]; (repeat' split) <;> rfl
  case acceptVer => simp only [runAction, acceptHeldVer, acceptVerResponse]; (repeat' split) <;> rfl
  case commitMode => rfl
  case resultOk => rfl
  all_goals
    simp only [runAction, sendBytes]
    apply A <;> intro <;> rfl

/-- What an operation keeps (its lines, the end and the errors its lines can raise). -/
theorem runOp_rel (R : State → State → Prop) (refl : ∀ s, R s s) (trans : ∀ s t u, R s t → R t u → R s u)
    (A : Action → Prop) (E : Err → Prop) (lineE : ∀ a, A a → ∀ s e t, runAction a s = .raised e t → E e)
    (line : ∀ a, A a → ∀ s, R s (runAction a s).state)
    (seq : ∀ s q, R s { s with seq := q }) (raise : ∀ s w e, E e → R s (s.raise w e)) (w : Bool) (l : List Action)
        (hA : ∀ a ∈ l, A a) (s : State) :
    R s (runOp w l s) := by
  have h0 : R s s.idle := seq s _
  have h1 := runSeq_rel A R refl trans line l s.idle hA
  have h2 := runSeq_raised_of A E lineE l s.idle
  unfold runOp
  cases hr : runSeq l s.idle with
  | done t => rw [hr] at h1; exact trans _ _ _ (trans _ _ _ h0 h1) (seq _ _)
  | awaits todo t => rw [hr] at h1; exact trans _ _ _ (trans _ _ _ h0 h1) (seq _ _)
  | raised e t => rw [hr] at h1; exact trans _ _ _ (trans _ _ _ h0 h1) (raise _ _ _ (h2 e t hA hr))

/-- A view that the lines leave alone, an operation leaves alone. -/
theorem runOp_view {α : Type} (v : State → α) (A : Action → Prop) (line : ∀ a, A a → ∀ s, v (runAction a s).state =
    v s)
    (seq : ∀ s q, v { s with seq := q } = v s) (raise : ∀ s w e, v (s.raise w e) = v s) (w : Bool) (l : List Action)
        (hA : ∀ a ∈ l, A a) (s : State) : v (runOp w l s) = v s :=
  runOp_rel (fun s t => v t = v s) (fun _ => rfl) (fun _ _ _ a b => Eq.trans b a) A (fun _ => True)
      (fun _ _ _ _ _ _ => trivial) line seq (fun s w e _ => raise s w e) w l hA s

/-- The lines of WriteModeLines (R102). -/
theorem writeModeLines_mem {p m a} (h : a ∈ writeModeLines p m) : a = .writeBoth m ∨ a = .writeA m ∨ a =
    .writeB m := by
  unfold writeModeLines at h
  split at h <;> simp at h <;> tauto

/-- The lines of SET_MODE (R101). -/
theorem setModeLines_mem {p m a} (h : a ∈ setModeLines p m) :
    a = .writeBoth m ∨ a = .writeA m ∨ a = .writeB m ∨ a = .commitMode m ∨ a = .poll 0 0 ∨ a = .closePort ∨ a =
        .openPort m := by
  simp only [setModeLines, waitReadyLines, reconfigureSerial, List.mem_append, List.mem_cons, List.not_mem_nil,
      or_false] at h
  rcases h with ((h | h) | h) | h
  · rcases writeModeLines_mem h with h | h | h <;> simp [h]
  all_goals tauto

theorem pollFrom_awaits_ne_nil : ∀ (as : List Answer) n w s l t, pollFrom as n w s = .awaits l t → l ≠ [] := by
  intro as
  induction as with
  | nil => intro n w s l t h; cases h; simp
  | cons a rest ih =>
    intro n w s l t h
    simp only [pollFrom] at h
    split at h
    · cases h
    · generalize (if a.level = .high then n + 1 else 0) = n1 at h
      split at h
      · cases h
      · split at h
        · cases h
        · exact ih _ _ _ _ _ h

theorem attempt_awaits_of {a p f g s l t} (h : attempt a p f g s = .awaits l t) : l = [a] ∧ t = s := by
  rcases attempt_cases a p f g s with ⟨_, h'⟩ | ⟨x, rest, _, ⟨_, h'⟩ | ⟨_, h'⟩⟩ <;> rw [h'] at h <;> cases h
  simp

theorem runAction_awaits_ne_nil (a : Action) (s l t) (h : runAction a s = .awaits l t) : l ≠ [] := by
  cases a <;> simp only [runAction, sendBytes] at h
  all_goals first
    | (rw [(attempt_awaits_of h).1]; simp)
    | (exact pollFrom_awaits_ne_nil _ _ _ _ _ _ h)
    | skip
  · cases h
  · split at h
    · rw [(attempt_awaits_of h).1]; simp
    · cases h
  · unfold readResponse at h; simp only at h; repeat' (split at h)
    all_goals cases h
    simp
  · split at h <;> cases h
  · unfold acceptHeldCfg acceptCfgResponse at h; repeat' (split at h)
    all_goals cases h
  · unfold acceptHeldVer acceptVerResponse at h; repeat' (split at h)
    all_goals cases h
  · cases h

/-- A run that waits for an answer has lines left. -/
theorem runSeq_awaits_ne_nil : ∀ (l : List Action) s td t, runSeq l s = .awaits td t → td ≠ [] := by
  intro l
  induction l with
  | nil => intro s td t h; cases h
  | cons a rest ih =>
    intro s td t h
    rw [runSeq_cons] at h
    cases hr : runAction a s with
    | done u => rw [hr] at h; exact ih u td t h
    | awaits todo u => rw [hr] at h; cases h; have := runAction_awaits_ne_nil _ _ _ _ hr; simp [this]
    | raised e' u => rw [hr] at h; cases h

/-- An operation that has ended with RESULT 0x00 ran to its end. -/
theorem runOp_idle_ok {w : Bool} {l : List Action} {s t : State} (h : runOp w l s = t) (hi : t.IsIdle) (hr :
    t.result = 0x00#8) :
    ∃ u, runSeq l s.idle = .done u ∧ t = u.idle := by
  unfold runOp at h
  cases hq : runSeq l s.idle with
  | done u => rw [hq] at h; exact ⟨u, rfl, h.symm⟩
  | awaits td u =>
    exfalso; rw [hq] at h; subst h
    have := runSeq_awaits_ne_nil _ _ _ _ hq
    simp [conclude, State.IsIdle, Sequencer.idle, this] at hi
  | raised e u =>
    exfalso; rw [hq] at h; subst h
    revert hr
    cases w <;> cases e <;> simp [conclude, Err.resultCode, initCode, Err.code]

/-- The two operand loads (R91). -/
theorem fetch_loaded_cases {s u : State} (h : s.fetch = .loaded u) :
    (∃ f rest, s.seq.todo = [] ∧ s.inputs = .loadFrameIn f :: rest ∧ u = { s with inputs := rest, frameIn := f }) ∨
    (∃ c rest, s.seq.todo = [] ∧ s.inputs = .loadCfgIn c :: rest ∧ u = { s with inputs := rest, cfgIn := c }) := by
  unfold State.fetch at h
  repeat' (split at h)
  all_goals first
    | (cases h; done)
    | skip
  · cases h; exact .inl ⟨_, _, by assumption, by assumption, rfl⟩
  · cases h; exact .inr ⟨_, _, by assumption, by assumption, rfl⟩

/-- The word an operation in progress stands before. -/
theorem awaited_some {s : State} {w : FetchWord} (h : s.awaited = some w) :
    ∃ a todo rest, s.seq.todo = a :: todo ∧ s.inputs = .issue w :: rest ∧ a.standsAt s w = true := by
  unfold State.awaited at h
  repeat' (split at h)
  all_goals cases h
  exact ⟨_, _, _, by assumption, by assumption, by assumption⟩

theorem awaited_eq_some {s : State} {a : Action} {todo : List Action} {w : FetchWord} {rest : List HostMove}
    (h : s.seq.todo = a :: todo) (hi : s.inputs = .issue w :: rest) (ha : a.standsAt s w = true) :
    s.awaited = some w := by
  simp [State.awaited, h, hi, ha]

theorem awaited_idle {s : State} (h : s.seq.todo = []) : s.awaited = none := by
  simp [State.awaited, h]

/-- An operation that stands before no word takes none. -/
theorem awaited_none {s : State} (h : ∀ a todo, s.seq.todo = a :: todo → ∀ w, a.standsAt s w = false) :
    s.awaited = none := by
  unfold State.awaited
  split
  · rename_i a todo w rest h1 h2; simp [h a todo h1 w]
  · rfl

/-- What an operation stands before is never a command. -/
theorem standsAt_cmd (s : State) (a : Action) (c : Word) : a.standsAt s (.cmd c) = false := by
  cases a <;> rfl

/-- The word that is taken up, and the state it is run in: the host's, with no operation in progress (R20), or one that an
operation stands before. -/
theorem fetch_word_cases {s u : State} {w : FetchWord} (h : s.fetch = .word w u) :
    ∃ rest : List HostMove, s.inputs = .issue w :: rest ∧
      ((s.seq.todo = [] ∧ ((∃ c, w = .cmd c ∧ u = { s with inputs := rest, cmd := c }) ∨
          ((∀ c, w ≠ .cmd c) ∧ u = { s with inputs := rest }))) ∨
       ∃ a todo, s.seq.todo = a :: todo ∧ a.standsAt s w = true ∧ (∀ c, w ≠ .cmd c) ∧
        u = { s with inputs := rest }) := by
  unfold State.fetch at h
  split at h
  · rename_i w' hw
    cases h
    obtain ⟨a, todo, rest, h1, h2, h3⟩ := awaited_some hw
    refine ⟨rest, h2, .inr ⟨a, todo, h1, h3, ?_, by rw [h2]; rfl⟩⟩
    intro c hc
    rw [hc, standsAt_cmd] at h3
    cases h3
  · repeat' (split at h)
    all_goals first
      | (cases h; done)
      | skip
    · cases h; exact ⟨_, by assumption, .inl ⟨by assumption, .inl ⟨_, rfl, rfl⟩⟩⟩
    · cases h; exact ⟨_, by assumption, .inl ⟨by assumption, .inr ⟨by assumption, rfl⟩⟩⟩

/-- With no operation in progress the host's command word is taken up, and CMD holds it (R20, R24). -/
theorem fetch_idle_cmd {s : State} {c : Word} {rest : List HostMove} (h : s.seq.todo = [])
    (hi : s.inputs = .issue (.cmd c) :: rest) : s.fetch = .word (.cmd c) { s with inputs := rest, cmd := c } := by
  unfold State.fetch
  simp only [awaited_idle h, h, hi]

/-- With no operation in progress any other word is taken up (log entry 9). -/
theorem fetch_idle_word {s : State} {w : FetchWord} {rest : List HostMove} (h : s.seq.todo = [])
    (hi : s.inputs = .issue w :: rest) (hw : ∀ c, w ≠ .cmd c) : s.fetch = .word w { s with inputs := rest } := by
  unfold State.fetch
  cases w with
  | cmd c => exact absurd rfl (hw c)
  | _ => simp only [awaited_idle h, h, hi]

/-- An operation takes the word it stands before. -/
theorem fetch_stands {s : State} {a : Action} {w : FetchWord} {todo : List Action} {rest : List HostMove}
    (h : s.seq.todo = a :: todo) (hi : s.inputs = .issue w :: rest) (ha : a.standsAt s w = true) :
    s.fetch = .word w { s with inputs := rest } := by
  unfold State.fetch
  simp only [awaited_eq_some h hi ha, hi, List.tail_cons]

/-- An operation in progress that does not stand before the next move goes on by itself. -/
theorem fetch_running {s : State} (h : s.seq.todo ≠ []) (hr : s.awaited = none) : s.fetch = .running := by
  unfold State.fetch
  rw [hr]
  cases ht : s.seq.todo with
  | nil => exact absurd ht h
  | cons a todo => rfl

/-- The step of an operation in progress that does not stand before the next move. -/
theorem step_running {s : State} (h : s.seq.todo ≠ []) (hr : s.awaited = none) : step s = .next s.resume := by
  unfold step
  rw [fetch_running h hr]

/-- What the decoder rejects of six bytes that arrive, arrives like the rest. -/
theorem decode_rx_error {f : Frame6} {r : Reject} (h : decode (.rx f) = .error r) : r = .unrecognizedHeader f.b0 := by
  change decodeRx f = _ at h
  unfold decodeRx at h
  repeat' (split at h)
  all_goals cases h
  rfl

/-- A response's instruction is the delivery of its six bytes. -/
theorem exec_response {f : Frame6} {i : Instr} (h : decode (.rx f) = .ok i) (s : State) :
    exec i s = .next (s.deliver f) := by
  change decodeRx f = _ at h
  unfold decodeRx at h
  repeat' (split at h)
  · cases h; simp only [exec, execWireParamsResponsePersist, toFrame_ofFrame_of_header ‹_›]
  · cases h; simp only [exec, execWireParamsResponseVolatile, toFrame_ofFrame_of_header ‹_›]
  · cases h
    have : (VerFields.ofFrame f).toFrame = f := by
      obtain ⟨b0, b1, b2, b3, b4, b5⟩ := f
      simp_all [VerFields.ofFrame, VerFields.toFrame]
    simp only [exec, execWireVersionResponse, this]
  · cases h

/-- The step that takes six bytes for the SerialRead an operation stands at, whatever their header. -/
theorem step_reading {s : State} {f : Frame6} {todo : List Action} {rest : List HostMove}
    (h : s.seq.todo = .receive :: todo) (hi : s.inputs = .issue (.rx f) :: rest) :
    step s = .next (State.deliver f { s with inputs := rest }) := by
  unfold step
  rw [fetch_stands h hi rfl]
  simp only
  cases hd : decode (.rx f) with
  | ok i => exact exec_response hd _
  | error r => rw [decode_rx_error hd]; rfl

/-- Every instruction is a run of lines, six bytes that arrive, a word that is put out or a codec operation. -/
theorem exec_cases (i : Instr) (p : Params) :
    (∃ w l, ∀ s : State, s.params = p → exec i s = .next (runOp w l s)) ∨
    (∃ f, ∀ s : State, exec i s = .next (s.deliver f)) ∨ (∃ w, ∀ s : State, exec i s = .next (s.perform w)) ∨
    i = .decodeCfg ∨ i = .encodeCfg ∨ i = .decodeVer := by
  cases i with
  | decodeCfg => simp
  | encodeCfg => simp
  | decodeVer => simp
  | wireParamsResponsePersist c => exact .inr (.inl ⟨_, fun _ => rfl⟩)
  | wireParamsResponseVolatile c => exact .inr (.inl ⟨_, fun _ => rfl⟩)
  | wireVersionResponse c => exact .inr (.inl ⟨_, fun _ => rfl⟩)
  | modeNormal => exact .inr (.inr (.inl ⟨_, fun _ => rfl⟩))
  | modeWakeup => exact .inr (.inr (.inl ⟨_, fun _ => rfl⟩))
  | modePowerSaving => exact .inr (.inr (.inl ⟨_, fun _ => rfl⟩))
  | modeProgram => exact .inr (.inr (.inl ⟨_, fun _ => rfl⟩))
  | wireReadParams => exact .inr (.inr (.inl ⟨_, fun _ => rfl⟩))
  | wireReadVersion => exact .inr (.inr (.inl ⟨_, fun _ => rfl⟩))
  | wireReset => exact .inr (.inr (.inl ⟨_, fun _ => rfl⟩))
  | wireWritePersist c => exact .inr (.inr (.inl ⟨_, fun _ => rfl⟩))
  | wireWriteVolatile c => exact .inr (.inr (.inl ⟨_, fun _ => rfl⟩))
  | _ =>
    exact .inl ⟨_, _, fun s h => by
      simp only [exec, execSetMode, execWaitReady, execReadCfg, execWriteCfg, execReadVer, execResetModule,
        execInitBlock, h]
      rfl⟩

/-- What a step keeps: anything that every line and each single update keeps. -/
theorem step_rel (R : State → State → Prop) (refl : ∀ s, R s s) (trans : ∀ s t u, R s t → R t u → R s u)
    (line : ∀ a s, R s (runAction a s).state)
    (seq : ∀ s q, R s { s with seq := q })
    (raise : ∀ s w e, R s (s.raise w e)) (ill : ∀ s, R s s.illegalOp)
    (inp : ∀ (s : State) l, R s { s with inputs := l }) (cm : ∀ (s : State) c, R s { s with cmd := c })
    (fi : ∀ (s : State) c, R s { s with frameIn := c }) (ci : ∀ (s : State) c, R s { s with cfgIn := c })
    (sup : ∀ s, R s s.supply) (rec : ∀ s p r, R s (s.record p r))
    (dc : ∀ (s : State) c, R s { s.idle with cfgOut := c, result := codeOk })
    (ec : ∀ (s : State) c, R s { s.idle with frameOut := c, result := codeOk })
    (dv : ∀ (s : State) c, R s { s.idle with verOut := c, result := codeOk }) (s t : State) (h : step s = .next t) :
        R s t := by
  have hrun : ∀ w l s, R s (conclude w (runSeq l s)) := by
    intro w l s
    have h1 := runSeq_rel (fun _ => True) R refl trans (fun a _ s => line a s) l s (fun _ _ => trivial)
    cases hr : runSeq l s with
    | done t => rw [hr] at h1; exact trans _ _ _ h1 (seq _ _)
    | awaits todo t => rw [hr] at h1; exact trans _ _ _ h1 (seq _ _)
    | raised e t => rw [hr] at h1; exact trans _ _ _ h1 (raise _ _ _)
  have hop : ∀ w l s, R s (runOp w l s) := fun w l s => trans _ _ _ (seq s _) (hrun w l s.idle)
  have hrx : ∀ f s, R s (s.deliver f) := fun f s => by
    unfold State.deliver
    split
    · exact trans _ _ _ (trans _ _ _ (rec _ _ _) (seq _ _)) (hrun _ _ _)
    · exact refl s
  have hpf : ∀ w s, R s (s.perform w) := fun w s =>
    perform_rel R refl trans w s (sup s) (fun a _ t => line a t) seq (fun t e _ => raise t _ e)
  have hex : ∀ i s t, exec i s = .next t → R s t := by
    intro i s t h
    cases i <;> (simp only [exec] at h) <;>
      first
      | (cases h; exact hop _ _ _)
      | (cases h; exact hrx _ _)
      | (cases h; exact hpf _ _)
      | skip
    · simp only [execDecodeCfg] at h; cases h; split
      · exact dc _ _
      · exact raise _ _ _
    · cases h; exact ec _ _
    · simp only [execDecodeVer] at h; cases h; split
      · exact dv _ _
      · exact raise _ _ _
  have hrej : ∀ w r s t, State.rejected w r s = .next t → R s t := by
    intro w r s t h
    unfold State.rejected at h
    split at h
    · cases h; exact ill _
    · cases h; exact ill _
    · cases h; exact ill _
    · split at h
      · cases h; exact hrx _ _
      · cases h; exact refl s
    · cases h
  have hw : ∀ w s t, (match decode w with | .ok i => exec i s | .error r => s.rejected w r) = .next t → R s t := by
    intro w s t h
    split at h
    · exact hex _ _ _ h
    · exact hrej _ _ _ _ h
  unfold step at h
  split at h
  · cases h; exact trans _ _ _ (sup s) (hrun _ _ _)
  · cases h; exact refl _
  · rename_i u hu
    cases h
    rcases fetch_loaded_cases hu with ⟨f, rest, _, _, rfl⟩ | ⟨f, rest, _, _, rfl⟩
    · exact trans _ _ _ (inp s rest) (fi { s with inputs := rest } f)
    · exact trans _ _ _ (inp s rest) (ci { s with inputs := rest } f)
  · rename_i w u hu
    have h1 := hw _ _ _ h
    rcases fetch_word_cases hu with ⟨rest, _, ⟨_, ⟨c, rfl, rfl⟩ | ⟨_, rfl⟩⟩ | ⟨_, _, _, _, _, rfl⟩⟩
    · exact trans _ _ _ (trans _ _ _ (inp s rest) (cm { s with inputs := rest } c)) h1
    · exact trans _ _ _ (inp s rest) h1
    · exact trans _ _ _ (inp s rest) h1

theorem supply_rel (R : State → State → Prop) (refl : ∀ s, R s s) (as : ∀ (s : State) a n,
    R s { s with answers := a, asked := n }) (s : State) : R s s.supply := by
  unfold State.supply; split
  · exact as _ _ _
  · exact refl s

/-- A run with its state changed. -/
def Run.map (f : State → State) : Run → Run
  | .done t => .done (f t)
  | .awaits l t => .awaits l (f t)
  | .raised e t => .raised e (f t)

/-- A change of the state that commutes with recording and taking answers commutes with the wait. -/
theorem pollFrom_map (φ : State → State) (hp : ∀ s, (φ s).params = s.params) (ha : ∀ s as, (φ s).withAnswers as =
    φ (s.withAnswers as)) (hr : ∀ s p r, (φ s).record p r = φ (s.record p r)) :
    ∀ (as : List Answer) n w s, pollFrom as n w (φ s) = Run.map φ (pollFrom as n w s) := by
  intro as
  induction as with
  | nil => intro n w s; simp [pollFrom, Run.map, ha]
  | cons a rest ih =>
    intro n w s
    simp only [pollFrom, hp]
    generalize (if a.level = .high then n + 1 else 0) = n1
    split
    · simp [Run.map, ha, hr]
    · split
      · simp [Run.map, ha, hr, State.delay]
      · split
        · simp [Run.map, ha, hr]
        · simp only [State.delay, ha, hr, ih]

theorem attempt_map (φ : State → State) (hans : ∀ s, (φ s).answers = s.answers) (ha : ∀ s as, (φ s).withAnswers as =
    φ (s.withAnswers as)) (hr : ∀ s p r, (φ s).record p r = φ (s.record p r))
    (a : Action) (p : Prim) (f g : State → State) (hf : ∀ t, f (φ t) = φ (f t)) (hg : ∀ t, g (φ t) = φ (g t)) (s :
        State) :
    attempt a p f g (φ s) = Run.map φ (attempt a p f g s) := by
  unfold attempt
  rw [hans]
  cases h : s.answers with
  | nil => rfl
  | cons a r =>
    simp only
    split
    · simp [Run.map, ha, hr, hg]
    · simp [Run.map, ha, hr, hf]

theorem readResponse_map (φ : State → State) (hp : ∀ s, (φ s).params = s.params) (hans : ∀ s, (φ s).answers =
    s.answers) (ha : ∀ s as, (φ s).withAnswers as = φ (s.withAnswers as)) (hr : ∀ s p r, (φ s).record p r =
    φ (s.record p r)) (hh : ∀ s h, (φ s).hold h = φ (s.hold h))
   (s : State) : readResponse (φ s) = Run.map φ (readResponse s) := by
  unfold readResponse
  simp only [hp, hans]
  split
  · rfl
  · split
    · simp [Run.map, ha, hr]
    · split <;> simp [Run.map, ha, hr, hh]

/-- A change that commutes with each line commutes with the run. -/
theorem runSeq_map (φ : State → State) (P : Action → Prop) (line : ∀ a, P a → ∀ s, runAction a (φ s) =
    Run.map φ (runAction a s)) :
    ∀ (l : List Action), (∀ a ∈ l, P a) → ∀ s, runSeq l (φ s) = Run.map φ (runSeq l s) := by
  intro l
  induction l with
  | nil => intro _ s; rfl
  | cons a rest ih =>
    intro hl s
    rw [runSeq_cons, runSeq_cons, line a (hl a (by simp))]
    cases hr : runAction a s with
    | done u => exact ih (fun b hb => hl b (by simp [hb])) u
    | awaits todo u => rfl
    | raised e u => rfl

theorem highRun_succ (p : Params) (n : Nat) (hn : 1 ≤ n) : highRun p (n + 1) = busyHigh p :: delayed 10 ::
    highRun p n := by
  cases n with
  | zero => omega
  | succ k => rfl

theorem minTime_append (l₁ l₂ : List Event) : minTime (l₁ ++ l₂) = minTime l₁ + minTime l₂ := by
  induction l₁ with
  | nil => simp [minTime]
  | cons e es ih => simp [minTime, ih]; omega

theorem lowSamples_append (l₁ l₂ : List Event) : lowSamples (l₁ ++ l₂) = lowSamples l₁ + lowSamples l₂ := by
  induction l₁ with
  | nil => simp [lowSamples]
  | cons e es ih => simp [lowSamples, ih]; omega

end Sys2Proof.Machine
end

