-- ==== Sys2Proof/Laws/PerInstr.lean ====
section
/-! SUPPORT. Statements made per instruction: one family, one lemma per constructor. `EncodedWidth`: the encoded form of an
instruction has the width of its format (R77): 16 bits for a host command, 2 for a mode code, 24 for a command frame, 48
for every other frame. -/

namespace Sys2Proof.Laws.EncodedWidth

open Sys2Proof

/-- The width of each instruction's format (R77, spec/opcode_table.json). -/
def width : Instr → Nat
  | .setMode _ => 16
  | .waitReady => 16
  | .decodeCfg => 16
  | .encodeCfg => 16
  | .decodeVer => 16
  | .readCfg => 16
  | .writeCfg => 16
  | .readVer => 16
  | .resetModule => 16
  | .initBlock => 16
  | .modeNormal => 2
  | .modeWakeup => 2
  | .modePowerSaving => 2
  | .modeProgram => 2
  | .wireReadParams => 24
  | .wireReadVersion => 24
  | .wireReset => 24
  | .wireWritePersist _ => 48
  | .wireWriteVolatile _ => 48
  | .wireParamsResponsePersist _ => 48
  | .wireParamsResponseVolatile _ => 48
  | .wireVersionResponse _ => 48

/-- The encoded form of the instruction has the width of its format. -/
def Statement (i : Instr) : Prop := (encode i).bits = width i

theorem setMode (m : Mode) : Statement (.setMode m) := rfl
theorem waitReady : Statement .waitReady := rfl
theorem decodeCfg : Statement .decodeCfg := rfl
theorem encodeCfg : Statement .encodeCfg := rfl
theorem decodeVer : Statement .decodeVer := rfl
theorem readCfg : Statement .readCfg := rfl
theorem writeCfg : Statement .writeCfg := rfl
theorem readVer : Statement .readVer := rfl
theorem resetModule : Statement .resetModule := rfl
theorem initBlock : Statement .initBlock := rfl
theorem modeNormal : Statement .modeNormal := rfl
theorem modeWakeup : Statement .modeWakeup := rfl
theorem modePowerSaving : Statement .modePowerSaving := rfl
theorem modeProgram : Statement .modeProgram := rfl
theorem wireReadParams : Statement .wireReadParams := rfl
theorem wireReadVersion : Statement .wireReadVersion := rfl
theorem wireReset : Statement .wireReset := rfl
theorem wireWritePersist (c : CfgFields) : Statement (.wireWritePersist c) := rfl
theorem wireWriteVolatile (c : CfgFields) : Statement (.wireWriteVolatile c) := rfl
theorem wireParamsResponsePersist (c : CfgFields) : Statement (.wireParamsResponsePersist c) := rfl
theorem wireParamsResponseVolatile (c : CfgFields) : Statement (.wireParamsResponseVolatile c) := rfl
theorem wireVersionResponse (v : VerFields) : Statement (.wireVersionResponse v) := rfl

end Sys2Proof.Laws.EncodedWidth
end

