-- ==== Sys2Proof/Tests/Slice0.lean ====
section
/-! SUPPORT. The model's own tests: the WellFormed smoke test, decoding of words written out from the spec's encodings,
at most two small tests per instruction with results from spec/95_test_vectors.md, and, for every obligation that has
hypotheses, a witness that meets them. -/

namespace Sys2Proof.Tests

open Sys2Proof Sys2Proof.Machine

/-! ## Helpers -/

/-- A primitive succeeds and a busy read shows HIGH; a SerialRead that takes this answer times out. -/
def good : Answer := ⟨false, .high, none⟩

/-- A busy read shows LOW. -/
def low : Answer := ⟨false, .low, none⟩

/-- The primitive fails with IoError. -/
def io : Answer := ⟨true, .high, none⟩

/-- A SerialRead returns f. -/
def gives (f : Frame6) : Answer := ⟨false, .high, some f⟩

/-- n good answers. -/
def goods (n : Nat) : List Answer := List.replicate n good

/-- A block in Normal with the port open at 57600, the start of the vectors of spec/95_test_vectors.md sections 2.5 to
2.7; registers the vectors do not name hold zeros. -/
def start : State :=
  { State.reset with
    cmd := 0, frameIn := default, cfgIn := default, frameOut := default, cfgOut := default, verOut := default
    result := 0xEE, errInfo := 0xEE, lineA := .low, lineB := .low
    serialOpen := true, serialCfg := some ⟨57600, 8, .none, 1, .none⟩ }

/-- The start with the environment's answers given. -/
def startWith (as : List Answer) : State := { start with answers := as }

/-- The start with other parameters. -/
def startOf (p : Params) (as : List Answer) : State := { start with params := p, answers := as }

/-- The start of V50 or V57 after the frame was sent: in Program at 9600, standing at the SerialRead. -/
def reading (accept : Action) (as : List Answer) : State :=
  { startWith as with
    mode := .program, lineA := .high, lineB := .high, serialCfg := some ⟨9600, 8, .none, 1, .none⟩
    seq := ⟨restOfRead start.params accept, false, .nothing⟩ }

/-- A SET_MODE(m) under these parameters that stands before its line writes; the lines show 10, MODE_STATE is Normal. -/
def driving (p : Params) (m : Mode) (as : List Answer) : State :=
  { startOf p as with lineA := .high, seq := ⟨setModeLines p m ++ [.resultOk], false, .nothing⟩ }

/-- A sequence in Program that stands before the SerialWrite `a` and has the return to Normal after it. -/
def sending (a : Action) (c : ConfigurationRegister) (as : List Answer) : State :=
  { reading .acceptCfg as with
    cfgIn := c, seq := ⟨a :: setModeLines start.params .normal ++ [.resultOk], false, .nothing⟩ }

/-- A view of the state an outcome goes on with. -/
def after {α : Type} (o : Host.Outcome State Fault Refusal) (f : State → α) : Option α :=
  match o with
  | .next t => some (f t)
  | .fault _ => none
  | .refused _ => none

/-- The configuration register of V1. -/
def v1 : ConfigurationRegister := ⟨true, 1, .none, 9600, 300, 23, false, false, 250, false, 30⟩

/-- The frame of V1. -/
def v1Frame : Frame6 := ⟨0xC0, 0x00, 0x01, 0x18, 0x17, 0x00⟩

/-- The raw fields of V1's frame. -/
def v1Fields : CfgFields := ⟨1, 0b00, 0b011, 0b000, 23, false, false, 0b000, false, 0b00⟩

/-- The register of V23. -/
def v23 : ConfigurationRegister := ⟨false, 0x1234, .even, 9600, 2400, 6, true, false, 1000, false, 24⟩

/-- The events of a SET_MODE in the notation of spec/95: `LINES BUSY?H D(20) CLOSE OPEN`. -/
def sm (a b : Level) (baud : Nat) : List Event :=
  [⟨.gpioWriteBoth 1 a 2 b, .ok⟩, ⟨.gpioRead 3, .level .high⟩, ⟨.delay 20, .ok⟩, ⟨.serialClose 1, .ok⟩,
    ⟨.serialOpen 1 ⟨baud, 8, .none, 1, .none⟩, .ok⟩]

/-! ## WellFormed: one ill-formed term for each check -/

/-- Parity 0b11 is never emitted (R131). -/
theorem test_wf_parity : (Instr.wireWritePersist { v1Fields with parity := 0b11 }).wellFormed = false := by decide
/-- Air rate 0b110 is never emitted (R131). -/
theorem test_wf_air6 : (Instr.wireWritePersist { v1Fields with air := 0b110 }).wellFormed = false := by decide
/-- Air rate 0b111 is never emitted (R131). -/
theorem test_wf_air7 : (Instr.wireWritePersist { v1Fields with air := 0b111 }).wellFormed = false := by decide
theorem test_wf_volatile_parity : (Instr.wireWriteVolatile { v1Fields with parity := 0b11 }).wellFormed = false := by
  decide
theorem test_wf_volatile_air6 : (Instr.wireWriteVolatile { v1Fields with air := 0b110 }).wellFormed = false := by decide
theorem test_wf_volatile_air7 : (Instr.wireWriteVolatile { v1Fields with air := 0b111 }).wellFormed = false := by decide
/-- The canonical frame of V1 is well formed, and a response may hold any code (R90). -/
theorem test_wf_good : (Instr.wireWritePersist v1Fields).wellFormed = true ∧
    (Instr.wireParamsResponsePersist { v1Fields with parity := 0b11, air := 0b111 }).wellFormed = true := by decide

/-! ## Decoding: words written out from R70 to R76 and R78 -/

/-- rsv 000000, mode 11, op 00000001. -/
theorem test_decode_setMode : decode (.cmd 0b0000001100000001) = .ok (.setMode .program) := by decide
theorem test_decode_setMode_wakeup : decode (.cmd 0b0000000100000001) = .ok (.setMode .wakeup) := by decide
theorem test_decode_waitReady : decode (.cmd 0b0000000000000010) = .ok .waitReady := by decide
theorem test_decode_decodeCfg : decode (.cmd 0b0000000000000011) = .ok .decodeCfg := by decide
theorem test_decode_encodeCfg : decode (.cmd 0b0000000000000100) = .ok .encodeCfg := by decide
theorem test_decode_decodeVer : decode (.cmd 0b0000000000000101) = .ok .decodeVer := by decide
theorem test_decode_readCfg : decode (.cmd 0b0000000000000110) = .ok .readCfg := by decide
theorem test_decode_writeCfg : decode (.cmd 0b0000000000000111) = .ok .writeCfg := by decide
theorem test_decode_readVer : decode (.cmd 0b0000000000001000) = .ok .readVer := by decide
theorem test_decode_resetModule : decode (.cmd 0b0000000000001001) = .ok .resetModule := by decide
theorem test_decode_initBlock : decode (.cmd 0b0000000000001010) = .ok .initBlock := by decide
theorem test_decode_modeNormal : decode (.lines 0b00) = .ok .modeNormal := by decide
theorem test_decode_modeWakeup : decode (.lines 0b01) = .ok .modeWakeup := by decide
theorem test_decode_modePowerSaving : decode (.lines 0b10) = .ok .modePowerSaving := by decide
theorem test_decode_modeProgram : decode (.lines 0b11) = .ok .modeProgram := by decide
theorem test_decode_wireReadParams :
    decode (.tx [0b11000001, 0b11000001, 0b11000001]) = .ok .wireReadParams := by decide
theorem test_decode_wireReadVersion :
    decode (.tx [0b11000011, 0b11000011, 0b11000011]) = .ok .wireReadVersion := by decide
theorem test_decode_wireReset : decode (.tx [0b11000100, 0b11000100, 0b11000100]) = .ok .wireReset := by decide
/-- Byte 3 is parity 01, baud 110, air 100; byte 5 is fixed 0, pullup 1, wake 101, fec 1, power 01 (R78). -/
theorem test_decode_wireWritePersist :
    decode (.tx [0b11000000, 0xAB, 0xCD, 0b01110100, 0x41, 0b01101101]) =
      .ok (.wireWritePersist ⟨0xABCD, 0b01, 0b110, 0b100, 0x41, false, true, 0b101, true, 0b01⟩) := by decide
theorem test_decode_wireWriteVolatile :
    decode (.tx [0b11000010, 0x12, 0x34, 0b10011010, 0x06, 0b10011010]) =
      .ok (.wireWriteVolatile ⟨0x1234, 0b10, 0b011, 0b010, 0x06, true, false, 0b011, false, 0b10⟩) := by decide
theorem test_decode_wireParamsResponsePersist :
    decode (.rx ⟨0b11000000, 0x00, 0x01, 0b00011000, 0x17, 0b00000000⟩) =
      .ok (.wireParamsResponsePersist v1Fields) := by decide
theorem test_decode_wireParamsResponseVolatile :
    decode (.rx ⟨0b11000010, 0xFF, 0xFF, 0b11111111, 0xFF, 0b11111111⟩) =
      .ok (.wireParamsResponseVolatile ⟨0xFFFF, 0b11, 0b111, 0b111, 0xFF, true, true, 0b111, true, 0b11⟩) := by decide
theorem test_decode_wireVersionResponse :
    decode (.rx ⟨0b11000011, 0x01, 0x02, 0x03, 0xAA, 0x55⟩) =
      .ok (.wireVersionResponse ⟨0x01, 0x02, 0x03, 0xAA, 0x55⟩) := by decide

/-- V29: the illegal words, each with its reason. -/
theorem test_decode_illegal :
    decode (.cmd 0x0000) = .error (.unknownOpcode 0x00) ∧ decode (.cmd 0x000B) = .error (.unknownOpcode 0x0B) ∧
    decode (.cmd 0x00FF) = .error (.unknownOpcode 0xFF) ∧ decode (.cmd 0x0102) = .error .modeOnOtherOp ∧
    decode (.cmd 0x0306) = .error .modeOnOtherOp ∧ decode (.cmd 0x0401) = .error .reservedBits ∧
    decode (.cmd 0x8003) = .error .reservedBits := by decide
/-- V18, V28: a header that no response has; bytes to send that are no frame. -/
theorem test_decode_no_frame :
    decode (.rx ⟨0xC1, 0, 0, 0, 0, 0⟩) = .error (.unrecognizedHeader 0xC1) ∧
    decode (.tx [0xC1, 0xC1]) = .error .notAFrame ∧ decode (.tx [0xC1, 0xC1, 0xC3]) = .error .notAFrame ∧
    decode (.tx [0xC3, 0, 0, 0, 0, 0]) = .error .notAFrame := by decide

/-- Rows of spec/opcode_table.json by their match words (log entry 10 for the rows with equal bits). -/
theorem test_table_words :
    decodeTableWord 16 0x0001 = some (.setMode .normal) ∧ decodeTableWord 16 0x000A = some .initBlock ∧
    decodeTableWord 8 0b10 = some .modePowerSaving ∧ decodeTableWord 24 0xC1C1C1 = some .wireReadParams ∧
    decodeTableWord 24 0xC3C3C3 = some .wireReadVersion ∧ decodeTableWord 24 0xC4C4C4 = some .wireReset ∧
    decodeTableWord 48 0xC00001181700 = some (.wireWritePersist v1Fields) ∧
    decodeTableWord 48 0xC20000000000 = some (.wireWriteVolatile ⟨0, 0, 0, 0, 0, false, false, 0, false, 0⟩) ∧
    decodeTableWord 48 0xC30102030000 = some (.wireVersionResponse ⟨1, 2, 3, 0, 0⟩) ∧
    decodeTableWord 16 0x000B = none := by decide

/-! ## Reset, and a first instruction after it -/

/-- R31: the values the spec gives. -/
theorem test_reset : State.reset.mode = .normal ∧ State.reset.gpioDir = ⟨.unconfigured, .unconfigured, .unconfigured⟩ ∧
    State.reset.serialOpen = false ∧ State.reset.serialCfg = none ∧ State.reset.cfgCache = none ∧
    State.reset.verCache = none := ⟨rfl, rfl, rfl, rfl, rfl, rfl⟩

/-- R231: with no move of the host the block waits. -/
theorem test_reset_waits : step State.reset = .next State.reset := rfl

/-- The word placed by `withFetchWord` is run as the first one, and CMD holds it. -/
theorem test_first_step : after (step (State.reset.withFetchWord 16 0x0002)) (fun t => (t.cmd, t.seq.todo)) =
    some (0x0002, [.poll 0 0, .resultOk]) := by decide
/-- A frame placed so belongs to no operation: it is not sent (R240). -/
theorem test_first_step_frame :
    after (step (State.reset.withFetchWord 24 0xC4C4C4)) (fun t => (t.inputs, t.seq.todo, t.trace)) =
    some ([], [], []) := by decide

/-! ## The instructions: results from spec/95_test_vectors.md -/

/-- V40, third row. -/
theorem test_setMode : after (exec (.setMode .powerSaving) (startWith (goods 4)))
    (fun t => ((t.result, t.lineA, t.lineB), t.mode, t.serialCfg.map (·.baud), t.trace)) =
    some ((0x00, .high, .low), .powerSaving, some 57600, sm .high .low 57600) := by decide
/-- V44: `b_then_a`, and the first SET_MODE with the port not open has no CLOSE (V42). -/
theorem test_setMode_order :
    after (exec (.setMode .program) { startOf { Config.params with modeWriteOrder := .bThenA } (goods 4) with
      serialOpen := false }) (fun t => t.trace) =
    some [⟨.gpioWrite 2 .high, .ok⟩, ⟨.gpioWrite 1 .high, .ok⟩, ⟨.gpioRead 3, .level .high⟩, ⟨.delay 20, .ok⟩,
      ⟨.serialOpen 1 ⟨9600, 8, .none, 1, .none⟩, .ok⟩] := by decide

/-- V41 (b). -/
theorem test_waitReady :
    after (exec .waitReady (startOf { Config.params with readySamples := 2 } [low, good, low, good, good]))
      (fun t => (t.result, minTime t.trace, t.trace.length)) = some (0x00, 60, 10) := by decide
/-- V49 (a): four reads, three delays. -/
theorem test_waitReady_timeout :
    after (exec .waitReady (startOf { Config.params with readyTimeoutMs := some 30 } (List.replicate 9 low)))
      (fun t => (t.result, minTime t.trace, t.trace.length)) = some (0x03, 30, 7) := by decide

/-- V1. -/
theorem test_decodeCfg : after (exec .decodeCfg { start with frameIn := v1Frame })
    (fun t => (t.cfgOut, t.result, t.cfgCache)) = some (v1, 0x00, none) := by decide
/-- V16, under the high power table. -/
theorem test_decodeCfg_ones :
    after (exec .decodeCfg { start with frameIn := ⟨0xC2, 0xFF, 0xFF, 0xFF, 0xFF, 0xFF⟩ }) (fun t => t.cfgOut) =
    some ⟨false, 65535, .none, 115200, 19200, 255, true, true, 2000, true, 21⟩ := by decide

/-- V23. -/
theorem test_encodeCfg : after (exec .encodeCfg { start with cfgIn := v23 }) (fun t => (t.frameOut, t.result)) =
    some (⟨0xC2, 0x12, 0x34, 0x9A, 0x06, 0x9A⟩, 0x00) := by decide
/-- V26: values outside the tables. -/
theorem test_encodeCfg_other :
    after (exec .encodeCfg { start with cfgIn := ⟨true, 0xABCD, .odd, 115200, 777, 0x41, false, true, 300, true, 5⟩ })
      (fun t => t.frameOut) = some ⟨0xC0, 0xAB, 0xCD, 0x78, 0x41, 0x44⟩ := by decide

/-- V27. -/
theorem test_decodeVer : after (exec .decodeVer { start with frameIn := ⟨0xC3, 0xFF, 0x00, 0x7F, 0xAA, 0x55⟩ })
    (fun t => (t.verOut, t.result, t.verCache)) = some (⟨255, 0, 127⟩, 0x00, none) := by decide
/-- V28. -/
theorem test_decodeVer_header : after (exec .decodeVer { start with frameIn := v1Frame })
    (fun t => (t.verOut, t.result, t.errInfo)) = some (default, 0x04, 0xC0) := by decide

/-- V50. -/
theorem test_readCfg : after (exec .readCfg (startWith (goods 5 ++ [gives v1Frame] ++ goods 4)))
    (fun t => ((t.result, t.cfgOut, t.cfgCache, t.mode), t.serialCfg.map (·.baud), t.trace)) =
    some ((0x00, v1, some v1, .normal), some 57600, sm .high .high 9600 ++
      [⟨.serialWrite 1 [0xC1, 0xC1, 0xC1], .ok⟩, ⟨.serialRead 1 6 20, .bytes v1Frame⟩] ++ sm .low .low 57600) := by
  decide
/-- V52. -/
theorem test_readCfg_timeout :
    after (exec .readCfg (startOf { Config.params with restoreOnReadTimeout := false } (goods 10)))
      (fun t => (t.result, t.mode, t.serialCfg.map (·.baud), t.trace.length)) =
    some (0x02, .program, some 9600, 7) := by decide

/-- V59 (a). -/
theorem test_writeCfg : after (exec .writeCfg { startWith (goods 9) with cfgIn := v23 })
    (fun t => (t.result, t.mode, t.cfgCache, t.trace)) =
    some (0x00, .normal, none, sm .high .high 9600 ++
      [⟨.serialWrite 1 [0xC2, 0x12, 0x34, 0x9A, 0x06, 0x9A], .ok⟩] ++ sm .low .low 57600) := by decide
/-- V59 (b). -/
theorem test_writeCfg_fails : after (exec .writeCfg { startWith (goods 4 ++ [io] ++ goods 4) with cfgIn := v23 })
    (fun t => (t.result, t.mode, t.serialCfg.map (·.baud), t.trace.length)) =
    some (0x01, .program, some 9600, 6) := by decide

/-- V57 (a). -/
theorem test_readVer : after (exec .readVer (startWith (goods 5 ++ [gives ⟨0xC3, 1, 2, 3, 0, 0⟩] ++ goods 4)))
    (fun t => (t.result, t.verOut, t.verCache, t.mode)) = some (0x00, ⟨1, 2, 3⟩, some ⟨1, 2, 3⟩, .normal) := by decide
/-- P5: the response is lost when the return to Normal expires. -/
theorem test_readVer_lost :
    after (exec .readVer (startOf { Config.params with readyTimeoutMs := some 20 }
      (goods 5 ++ [gives ⟨0xC3, 1, 2, 3, 0, 0⟩, good, low, low, low])))
      (fun t => (t.result, t.verCache, t.mode, t.lineA, t.serialCfg.map (·.baud))) =
    some (0x03, none, .normal, .low, some 9600) := by decide

/-- V60 (b): the reset race. -/
theorem test_resetModule : after (exec .resetModule (startWith (goods 7 ++ [low, low] ++ goods 3)))
    (fun t => (t.result, t.mode, t.serialCfg.map (·.baud), t.trace)) =
    some (0x00, .program, some 9600, sm .high .high 9600 ++
      [⟨.serialWrite 1 [0xC4, 0xC4, 0xC4], .ok⟩, ⟨.gpioRead 3, .level .high⟩, ⟨.delay 20, .ok⟩,
        ⟨.gpioWriteBoth 1 .high 2 .high, .ok⟩, ⟨.gpioRead 3, .level .low⟩, ⟨.delay 10, .ok⟩,
        ⟨.gpioRead 3, .level .low⟩, ⟨.delay 10, .ok⟩, ⟨.gpioRead 3, .level .high⟩, ⟨.delay 20, .ok⟩,
        ⟨.serialClose 1, .ok⟩, ⟨.serialOpen 1 ⟨9600, 8, .none, 1, .none⟩, .ok⟩]) := by decide

/-- The state after reset with the answers of P1. -/
def boot : State := { State.reset with
  answers := goods 11 ++ [gives ⟨0xC3, 1, 2, 3, 0, 0⟩] ++ goods 9 ++ [gives v1Frame] ++ goods 4 }

/-- The state after reset with the answers of V63: the configuration read gets zeros. -/
def bootV63 : State := { State.reset with
  answers := goods 11 ++ [gives ⟨0xC3, 1, 2, 3, 0, 0⟩] ++ goods 9 ++ [gives ⟨0, 0, 0, 0, 0, 0⟩] ++ goods 4 }

/-- P1: the boot; 100 ms of delay. -/
theorem test_initBlock :
    after (exec .initBlock boot) (fun t => (t.result, t.gpioDir, t.verCache, t.cfgCache)) =
      some (0x00, ⟨.input, .output, .output⟩, some ⟨1, 2, 3⟩, some v1) ∧
    after (exec .initBlock boot) (fun t => (t.mode, t.lineA, t.serialCfg.map (·.baud), minTime t.trace)) =
      some (.normal, .low, some 57600, 100) := by decide
/-- V62. -/
theorem test_initBlock_direction : after (exec .initBlock { State.reset with answers := [good, good, io] })
    (fun t => (t.result, t.gpioDir, t.mode, t.trace.length)) =
    some (0x81, ⟨.input, .output, .unconfigured⟩, .normal, 3) := by decide

/-- R72, R102: code 00 at the line writes of SET_MODE(Normal); MODE_STATE comes after it (R101). -/
theorem test_modeNormal : after (exec .modeNormal (driving Config.params .normal [good]))
    (fun t => (t.lineA, t.lineB, t.seq.todo.take 1, t.trace)) =
    some (.low, .low, [.commitMode .normal], [⟨.gpioWriteBoth 1 .low 2 .low, .ok⟩]) := by decide
/-- R240: with no operation in progress no code drives the lines. -/
theorem test_modeNormal_idle : exec .modeNormal (startWith [good]) = .next (startWith [good]) := rfl
/-- V44's order: line B is written first. -/
theorem test_modeWakeup :
    after (exec .modeWakeup (driving { Config.params with modeWriteOrder := .bThenA } .wakeup [good, good]))
      (fun t => (t.lineA, t.lineB, t.trace)) =
    some (.low, .high, [⟨.gpioWrite 2 .high, .ok⟩, ⟨.gpioWrite 1 .low, .ok⟩]) := by decide
/-- A code is not that of another mode's SET_MODE. -/
theorem test_modeWakeup_other :
    exec .modeWakeup (driving Config.params .program [good]) = .next (driving Config.params .program [good]) := rfl
theorem test_modePowerSaving : after (exec .modePowerSaving (driving Config.params .powerSaving [good]))
    (fun t => (t.lineA, t.lineB)) = some (.high, .low) := by decide
/-- The write of line B fails: line A keeps its new level, the operation ends (R102, R202). -/
theorem test_modePowerSaving_fails :
    after (exec .modePowerSaving (driving { Config.params with modeWriteOrder := .aThenB } .powerSaving [good, io]))
      (fun t => (t.lineA, t.result, t.seq.todo, t.trace.length)) = some (.high, 0x01, [], 2) := by decide
theorem test_modeProgram : after (exec .modeProgram (driving Config.params .program [good]))
    (fun t => (t.lineA, t.lineB, t.mode)) = some (.high, .high, .normal) := by decide
/-- A step takes the code that the operation stands before, and no other move. -/
theorem test_modeProgram_step :
    after (step { driving Config.params .program [good] with inputs := [.issue (.lines 0b11)] })
      (fun t => (t.lineB, t.inputs, t.mode)) = some (.high, [], .normal) ∧
    after (step { driving Config.params .program (goods 4) with inputs := [.issue (.lines 0b01)] })
      (fun t => (t.lineB, t.inputs.length, t.mode)) = some (.high, 1, .program) := by decide

/-- V8: the bytes of each frame, at the SerialWrite of the sequence that sends it. -/
theorem test_wireReadParams : after (exec .wireReadParams (sending (.send [0xC1, 0xC1, 0xC1]) v1 [good]))
    (fun t => (t.trace, t.seq.todo.take 1)) =
    some ([⟨.serialWrite 1 [0xC1, 0xC1, 0xC1], .ok⟩], [.writeBoth .normal]) := by decide
/-- R240: with no operation in progress nothing is sent. -/
theorem test_wireReadParams_idle : exec .wireReadParams (startWith [good]) = .next (startWith [good]) := rfl
theorem test_wireReadVersion : after (exec .wireReadVersion (sending (.send [0xC3, 0xC3, 0xC3]) v1 [good]))
    (fun t => t.trace) = some [⟨.serialWrite 1 [0xC3, 0xC3, 0xC3], .ok⟩] := by decide
/-- A frame is not that of another sequence. -/
theorem test_wireReadVersion_other : exec .wireReadVersion (sending (.send [0xC4, 0xC4, 0xC4]) v1 [good]) =
    .next (sending (.send [0xC4, 0xC4, 0xC4]) v1 [good]) := rfl
theorem test_wireReset : after (exec .wireReset (sending (.send [0xC4, 0xC4, 0xC4]) v1 [io]))
    (fun t => (t.result, t.mode, t.seq.todo, t.trace)) =
    some (0x01, .program, [], [⟨.serialWrite 1 [0xC4, 0xC4, 0xC4], .ioError⟩]) := by decide
theorem test_wireWritePersist : after (exec (.wireWritePersist v1Fields) (sending .sendCfgIn v1 [good]))
    (fun t => t.trace) = some [⟨.serialWrite 1 [0xC0, 0x00, 0x01, 0x18, 0x17, 0x00], .ok⟩] := by decide
/-- The frame of V59. -/
theorem test_wireWriteVolatile :
    after (exec (.wireWriteVolatile ⟨0x1234, 0b10, 0b011, 0b010, 0x06, true, false, 0b011, false, 0b10⟩)
      (sending .sendCfgIn v23 [good])) (fun t => t.trace) =
    some [⟨.serialWrite 1 [0xC2, 0x12, 0x34, 0x9A, 0x06, 0x9A], .ok⟩] := by decide
/-- The response of V50, at the read of READ_CFG. -/
theorem test_wireParamsResponsePersist :
    after (exec (.wireParamsResponsePersist v1Fields) (reading .acceptCfg (goods 4)))
      (fun t => ((t.result, t.cfgOut, t.cfgCache, t.mode), t.serialCfg.map (·.baud), t.trace)) =
    some ((0x00, v1, some v1, .normal), some 57600, ⟨.serialRead 1 6 20, .bytes v1Frame⟩ :: sm .low .low 57600) := by
  decide
/-- R60: with no read under way a response refreshes no cache; nothing of the block changes (R30). -/
theorem test_wireParamsResponsePersist_idle : exec (.wireParamsResponsePersist v1Fields) start = .next start := rfl
/-- The response of V55, at the read of READ_CFG. -/
theorem test_wireParamsResponseVolatile :
    after (exec (.wireParamsResponseVolatile ⟨0xFFFF, 0b11, 0b111, 0b111, 0xFF, true, true, 0b111, true, 0b11⟩)
      (reading .acceptCfg (goods 4))) (fun t => t.cfgCache) =
    some (some ⟨false, 65535, .none, 115200, 19200, 255, true, true, 2000, true, 21⟩) := by decide
/-- V57 (b): a parameters response at the read of READ_VER. -/
theorem test_wireParamsResponseVolatile_wrong :
    after (exec (.wireParamsResponseVolatile v1Fields) (reading .acceptVer (goods 4)))
      (fun t => (t.result, t.errInfo, t.verCache, t.mode)) = some (0x04, 0xC2, none, .normal) := by decide
/-- The response of V57 (c), at the read of READ_VER. -/
theorem test_wireVersionResponse :
    after (exec (.wireVersionResponse ⟨0xFF, 0x00, 0x7F, 0xAA, 0x55⟩) (reading .acceptVer (goods 4)))
      (fun t => (t.result, t.verOut, t.verCache)) = some (0x00, ⟨255, 0, 127⟩, some ⟨255, 0, 127⟩) := by decide
/-- R60: with no read under way. -/
theorem test_wireVersionResponse_idle : exec (.wireVersionResponse ⟨1, 2, 3, 0, 0⟩) start = .next start := rfl

/-! ## Witnesses: concrete states and operands that meet the hypotheses of the obligations -/

theorem witness_EncodeOfDecodeGivesWordBack :
    decode (.cmd 0x0301) = .ok (.setMode .program) ∧ decode (.lines 0b11) = .ok .modeProgram ∧
    decode (.tx v1Frame.bytes) = .ok (.wireWritePersist v1Fields) ∧
    decode (.rx v1Frame) = .ok (.wireParamsResponsePersist v1Fields) := by decide

/-- The boundaries of each of the four ways to be illegal, and legal words beside them. -/
theorem witness_IllegalCommandIsRefused :
    let illegal := fun w : Word =>
      w.toNat % 256 = 0 ∨ 0x0B ≤ w.toNat % 256 ∨ w.toNat / 1024 ≠ 0 ∨ (w.toNat % 256 ≠ 1 ∧ w.toNat / 256 % 4 ≠ 0)
    illegal 0x0000 ∧ illegal 0x000B ∧ illegal 0x0401 ∧ illegal 0xFC01 ∧ illegal 0x0102 ∧ illegal 0x030A ∧
    ¬ illegal 0x0001 ∧ ¬ illegal 0x0301 ∧ ¬ illegal 0x000A ∧
    ({ start with inputs := [.issue (.cmd 0x000B)] } : State).IsIdle := by decide

/-- A command and a code with no operation in progress; a code at its line writes, a frame at its SerialWrite, and a
response at a SerialRead. -/
theorem witness_StepRunsDecodedInstruction :
    (start.seq.todo = [] ∧ decode (.cmd 0x0002) = .ok .waitReady ∧
      ({ start with inputs := [.issue (.cmd 0x0002)] } : State).inputs = .issue (.cmd 0x0002) :: []) ∧
    (decode (.lines 0b01) = .ok .modeWakeup ∧ ∀ c, FetchWord.lines 0b01 ≠ .cmd c) ∧
    (let s := driving Config.params .wakeup []
     ∃ a todo, s.seq.todo = a :: todo ∧ a.standsAt s (.lines 0b01) = true) ∧
    (decode (.tx v1Frame.bytes) = .ok (.wireWritePersist v1Fields) ∧
      let s := sending .sendCfgIn v1 []
      ∃ a todo, s.seq.todo = a :: todo ∧ a.standsAt s (.tx v1Frame.bytes) = true) ∧
    (decode (.rx v1Frame) = .ok (.wireParamsResponsePersist v1Fields) ∧
      let s := reading .acceptCfg []
      ∃ a todo, s.seq.todo = a :: todo ∧ a.standsAt s (.rx v1Frame) = true) :=
  ⟨⟨rfl, by decide, rfl⟩, ⟨by decide, by intro c h; cases h⟩, ⟨_, _, rfl, by decide⟩,
    ⟨by decide, _, _, rfl, by decide⟩, by decide, _, _, rfl, rfl⟩

/-- Idle with no move, with an operand load of each kind; in progress with and without answers, a word waiting; at a
SerialRead for which bytes arrive; and before a code that is the next move. -/
theorem witness_StepWaitsLoadsAndGoesOn :
    (start.seq.todo = [] ∧ start.inputs = []) ∧
    ({ start with inputs := [.loadFrameIn v1Frame] } : State).inputs = .loadFrameIn v1Frame :: [] ∧
    ({ start with inputs := [.loadCfgIn v1] } : State).inputs = .loadCfgIn v1 :: [] ∧
    (let s : State := { startWith [low] with seq := ⟨[.poll 0 0], false, .nothing⟩, inputs := [.issue (.rx v1Frame)] }
     s.seq.todo ≠ [] ∧ s.awaited = none ∧ s.answers ≠ []) ∧
    (let s : State := { reading .acceptCfg [] with inputs := [.issue (.cmd 0x0002)] }
     s.seq.todo ≠ [] ∧ s.awaited = none ∧ s.answers = []) ∧
    (let s : State := { reading .acceptCfg [] with inputs := [.issue (.rx v1Frame)] }
     s.seq.todo = .receive :: (restOfRead s.params .acceptCfg).tail ∧ s.inputs = .issue (.rx v1Frame) :: []) ∧
    ({ driving Config.params .wakeup [] with inputs := [.issue (.lines 0b01)] } : State).awaited = some (.lines 0b01) := by
  decide

theorem witness_DecodeCfgReadsEveryField :
    ({ start with frameIn := v1Frame } : State).frameIn.b0 = 0xC0 ∧
    ({ start with frameIn := { v1Frame with b0 := 0xC2 } } : State).frameIn.b0 = 0xC2 := by decide

/-- The headers beside the two valid ones. -/
theorem witness_DecodeCfgRejectsOtherHeaders : ∀ h ∈ [0x00#8, 0xBF#8, 0xC1#8, 0xC3#8, 0xFF#8],
    ({ start with frameIn := { v1Frame with b0 := h } } : State).frameIn.b0 ≠ 0xC0 ∧
    ({ start with frameIn := { v1Frame with b0 := h } } : State).frameIn.b0 ≠ 0xC2 := by decide

theorem witness_DecodeVerReadsBytes :
    ({ start with frameIn := ⟨0xC3, 1, 2, 3, 0, 0⟩ } : State).frameIn.b0 = 0xC3 ∧
    ({ start with frameIn := ⟨0xC4, 1, 2, 3, 0, 0⟩ } : State).frameIn.b0 ≠ 0xC3 := by decide

theorem witness_DecodeIsPermissive : v1Frame.b0 = 0xC0 ∧ ({ v1Frame with b0 := 0xC2 } : Frame6).b0 = 0xC2 := by decide

/-- Frames on both sides of the equivalence: canonical codes, and each code that is not. -/
theorem witness_EncodeAfterDecode :
    (v1Frame.b0 = 0xC0 ∧ v1Frame.b3.toNat / 64 ≠ 3 ∧ v1Frame.b3.toNat % 8 ≠ 6 ∧ v1Frame.b3.toNat % 8 ≠ 7) ∧
    (0xDA#8).toNat / 64 = 3 ∧ (0x1E#8).toNat % 8 = 6 ∧ (0x1F#8).toNat % 8 = 7 := by decide

theorem witness_DecodedRegisterIsStable : decodeCfgFrame .high v1Frame = .ok v1 := by decide

theorem witness_SetModeCompletes :
    let s := startWith (goods 4 ++ [low])
    waitFits s.params s.params.readySamples = true ∧ s.answers = goods 4 ++ [low] ∧
    (goods 4).length = setModeCost s.params s.serialOpen ∧ ∀ a ∈ goods 4, a.Good := by decide

/-- Each order of writes with its answers; each write alone, with an answer of each kind and with none listed; and a block
that stands before no line write. -/
theorem witness_ModeCodesDriveTheLines :
    (∀ x ∈ [(ModeWriteOrder.atomic, 1), (.aThenB, 2), (.bThenA, 2)],
      let p : Params := { Config.params with modeWriteOrder := x.1 }
      let s := driving p .wakeup (goods x.2 ++ [low])
      s.seq.todo = writeModeLines s.params .wakeup ++ .commitMode .wakeup :: s.seq.todo.drop (x.2 + 1) ∧
      s.answers = goods x.2 ++ [low] ∧ (goods x.2).length = lineCost s.params ∧ ∀ a ∈ goods x.2, a.fails = false) ∧
    (good.fails = false ∧ io.fails = true ∧ (startWith [io]).answers = io :: [] ∧
      ∀ a ∈ [Action.writeBoth .wakeup, .writeA .wakeup, .writeB .wakeup],
        let s : State := { start with seq := ⟨[a, .commitMode .wakeup], false, .nothing⟩ }
        s.seq.todo = a :: .commitMode .wakeup :: [] ∧ s.answers = []) ∧
    (∀ c todo, start.seq.todo = c :: todo → c ∉ [.writeBoth .wakeup, .writeA .wakeup, .writeB .wakeup]) ∧
    ∀ c todo, (reading .acceptCfg []).seq.todo = c :: todo →
      c ∉ [.writeBoth .wakeup, .writeA .wakeup, .writeB .wakeup] :=
  ⟨by decide, by decide, by (intro _ _ h; cases h), by (intro _ _ h; cases h; decide)⟩

/-- Each order of writes, with the first and with the second write failing. -/
theorem witness_FailedLineWrite :
    (startWith [io]).answers = io :: [] ∧ io.fails = true ∧ good.fails = false ∧
    (startWith [io]).params.modeWriteOrder = .atomic ∧
    (startOf { Config.params with modeWriteOrder := .aThenB } [good, io]).params.modeWriteOrder = .aThenB ∧
    (startOf { Config.params with modeWriteOrder := .bThenA } [good, io]).params.modeWriteOrder = .bThenA ∧
    (startOf { Config.params with modeWriteOrder := .bThenA } [good, io]).answers = good :: [io] := by decide

/-- A close that fails, an open that fails after a close, and an open that fails on a closed port. -/
theorem witness_FailedPortReopen :
    let p := Config.params
    waitFits p p.readySamples = true ∧ (goods 2).length = lineCost p + p.readySamples ∧ (∀ a ∈ goods 2, a.Good) ∧
    io.fails = true ∧ good.fails = false ∧
    ((startWith (goods 2 ++ [io] ++ [])).serialOpen = true ∧
      (startWith (goods 2 ++ [io] ++ [])).answers = goods 2 ++ [io] ++ []) ∧
    (startWith (goods 2 ++ [good, io] ++ [])).answers = goods 2 ++ [good, io] ++ [] ∧
    ({ startWith (goods 2 ++ [io] ++ []) with serialOpen := false } : State).serialOpen = false := by decide

/-- After LOW, HIGH, LOW, with two ready samples and T = 30: a busy read that fails, and a HIGH sample that does not
complete the count when 30 has been waited; and a first sample with T = 0 (V49 (g)). -/
theorem witness_FailedWaitKeepsLinesAndPort :
    (let p : Params := { Config.params with readySamples := 2, readyTimeoutMs := some 30 }
     let s := startOf p (goods 1 ++ [low, good, low] ++ [io] ++ [])
     (goods 1).length = lineCost s.params ∧ (∀ a ∈ goods 1, a.fails = false) ∧ waitGoesOn s.params [low, good, low] ∧
       s.answers = goods 1 ++ [low, good, low] ++ [io] ++ [] ∧ io.fails = true ∧
       good.fails = false ∧ highsAtEnd ([low, good, low] ++ [good]) < s.params.readySamples ∧
       s.params.readyTimeoutMs = some 30 ∧ 30 ≤ 10 * [low, good, low].length) ∧
    (let s := startOf { Config.params with readyTimeoutMs := some 0 } (goods 1 ++ [] ++ [low] ++ [])
     waitGoesOn s.params [] ∧ s.answers = goods 1 ++ [] ++ [low] ++ [] ∧ low.fails = false ∧
       highsAtEnd ([] ++ [low]) < s.params.readySamples ∧ s.params.readyTimeoutMs = some 0) := by decide

/-- HIGH, LOW, HIGH and the HIGH sample that completes a count of two when T = 30 has been waited; two LOW and two HIGH
samples, which just fit T = 30, where five samples do not; and no LOW sample at all. -/
theorem witness_WaitReadyCompletes :
    let p : Params := { Config.params with readySamples := 2, readyTimeoutMs := some 30 }
    (let s := startOf p ([good, low, good] ++ [good] ++ [])
     1 ≤ s.params.readySamples ∧ waitGoesOn s.params [good, low, good] ∧ good.fails = false ∧
       s.params.readySamples ≤ highsAtEnd ([good, low, good] ++ [good]) ∧
       s.answers = [good, low, good] ++ [good] ++ [] ∧ 30 ≤ 10 * [good, low, good].length) ∧
    (let s := startOf p ([low, low] ++ goods 2 ++ [])
     waitFits s.params ([low, low].length + (goods 2).length) = true ∧ waitFits s.params 5 = false ∧
       s.answers = [low, low] ++ goods 2 ++ [] ∧ (∀ a ∈ [low, low], a.Low) ∧ (∀ a ∈ goods 2, a.Good) ∧
       (goods 2).length = s.params.readySamples ∧ waitFits s.params (0 + (goods 2).length) = true) := by decide

/-- Each outcome of a sample: a failure; the count complete; not complete at waited 30 and at 20, timeout 30. -/
theorem witness_WaitTakesOneSample :
    let p : Params := { Config.params with readySamples := 2, readyTimeoutMs := some 30 }
    let s := fun (a : Answer) (n w : Nat) => ({ startOf p [a] with seq := ⟨[.poll n w, .resultOk], false, .nothing⟩ } :
      State)
    (s io 0 0).seq.todo = .poll 0 0 :: [.resultOk] ∧ (s io 0 0).answers = [io] ∧ io.fails = true ∧
    (good.fails = false ∧ p.readySamples ≤ (if good.level = .high then 1 + 1 else 0)) ∧
    ((if good.level = .high then 0 + 1 else 0) < p.readySamples ∧ p.readyTimeoutMs = some 30 ∧ 30 ≤ 30) ∧
    ((if low.level = .high then 1 + 1 else 0) < p.readySamples ∧ ¬ 30 ≤ 20) := by decide

/-- V49 (a): the fourth LOW sample is taken at waited 30. -/
theorem witness_WaitReadyExpires :
    let s := startOf { Config.params with readyTimeoutMs := some 30 } ([low, low, low] ++ [low] ++ [])
    waitGoesOn s.params [low, low, low] ∧ s.params.readyTimeoutMs = some 30 ∧
    s.answers = [low, low, low] ++ [low] ++ [] ∧ low.fails = false ∧
    highsAtEnd ([low, low, low] ++ [low]) < s.params.readySamples ∧ 30 ≤ 10 * [low, low, low].length := by decide

/-- Each operation before its first wait, and an operation that stands in a wait with LOW samples, with none listed, and
with LOW answers for ever. -/
theorem witness_HangIsKept :
    (let s := startWith [low, low]
     1 ≤ s.params.readySamples ∧ s.params.readyTimeoutMs = none ∧ ∀ a ∈ s.answers, a.Low) ∧
    (let s := startWith (goods 1 ++ [low])
     s.answers = goods 1 ++ [low] ∧ (goods 1).length = lineCost s.params ∧ (∀ a ∈ goods 1, a.fails = false) ∧
       ∀ a ∈ [low], a.Low) ∧
    (let s := startWith ([good, good, good] ++ goods 1 ++ [low])
     s.answers = [good, good, good] ++ goods 1 ++ [low] ∧ ∀ d ∈ [good, good, good], d.fails = false) ∧
    (let s : State := { startWith [low] with seq := ⟨[.poll 0 40, .resultOk], false, .nothing⟩ }
     s.seq.todo = .poll 0 40 :: [.resultOk] ∧ s.answers ≠ [] ∧ ∀ a ∈ s.answers, a.Low) ∧
    (let s : State := { start with seq := ⟨[.poll 0 40, .resultOk], false, .nothing⟩ }
     s.seq.todo = .poll 0 40 :: [.resultOk] ∧ s.answers = []) ∧
    ∀ k : Nat, ((fun _ => low) k).Low :=
  ⟨by decide, by decide, by decide, by decide, by decide, fun _ => ⟨rfl, rfl⟩⟩

/-- V48. -/
theorem witness_WaitReturnsOnlyAfterReady : 1 ≤ (startWith [good]).params.readySamples ∧
    ∃ t, exec .waitReady (startWith [good]) = .next t ∧ t.IsIdle ∧ t.result = 0x00#8 :=
  ⟨by decide, _, rfl, by decide, by decide⟩

/-- A SET_MODE that comes to its end, and one that does not. -/
theorem witness_SetModeIgnoresTheOldMode :
    (∃ t, exec (.setMode .program) (startWith (goods 4)) = .next t ∧ t.IsIdle ∧ t.result = 0x00#8) ∧
    ∃ t, exec (.setMode .program) (startWith [io]) = .next t ∧ t.result = 0x01#8 :=
  ⟨⟨_, rfl, by decide, by decide⟩, _, rfl, by decide⟩

/-- Each instruction of the frame statements answers a next state. -/
theorem witness_ControllerFrame : ∀ i ∈ [Instr.setMode .program, .waitReady, .modeNormal, .modeWakeup,
    .modePowerSaving, .modeProgram, .wireReadParams, .wireReadVersion, .wireReset, .wireWritePersist v1Fields,
    .wireWriteVolatile v1Fields], (after (exec i (startWith (goods 4))) (fun _ => ())).isSome = true := by decide

/-- Each sequence answers a next state, and in INITIALIZE a read of each kind can succeed and fail (V61, V63). -/
theorem witness_SequenceFrame :
    (∀ i ∈ [Instr.readCfg, .readVer, .writeCfg, .resetModule, .initBlock],
      (after (exec i (startWith (goods 20))) (fun _ => ())).isSome = true) ∧
    after (exec .initBlock { bootV63 with verCache := some ⟨9, 9, 9⟩, cfgCache := some v23 })
      (fun t => (t.result, t.verCache, t.cfgCache)) = some (0x84, some ⟨1, 2, 3⟩, some v23) := by decide

/-- V61, where READ_VER fails, and V63, where READ_CFG does. -/
theorem witness_InitializeFailsInARead :
    let throughVer (s : State) : List Action :=
      [.setDirBusy, .setDirModeA, .setDirModeB] ++ setModeLines s.params .normal ++ readVerLines s.params
    (let s : State := { State.reset with answers := goods 20 }
     ∃ e t, runSeq (throughVer s) s.idle = .raised e t ∧ e = .timeoutRead) ∧
    ∃ u e t, runSeq (throughVer bootV63) bootV63.idle = .done u ∧
      runSeq (readCfgLines bootV63.params) u = .raised e t ∧ e = .protocol 0x00 :=
  ⟨⟨_, _, rfl, rfl⟩, _, _, _, rfl, rfl, rfl⟩

/-- The answers of V50 and of V57 (a). -/
theorem witness_ReadCfgCompletes :
    let s := startWith (goods 4 ++ [good, gives v1Frame] ++ goods 4 ++ [])
    waitFits s.params s.params.readySamples = true ∧
    s.answers = goods 4 ++ [good, gives v1Frame] ++ goods 4 ++ [] ∧
    (goods 4).length = setModeCost s.params s.serialOpen ∧ (goods 4).length = setModeCost s.params true ∧
    (∀ a ∈ goods 4 ++ goods 4, a.Good) ∧ good.fails = false ∧ (gives v1Frame).fails = false ∧
    (gives v1Frame).rx = some v1Frame ∧ decodeCfgFrame s.params.powerTable v1Frame = .ok v1 := by decide

theorem witness_ReadVerCompletes :
    let f : Frame6 := ⟨0xC3, 1, 2, 3, 0, 0⟩
    let s := startWith (goods 4 ++ [good, gives f] ++ goods 4 ++ [])
    waitFits s.params s.params.readySamples = true ∧ s.answers = goods 4 ++ [good, gives f] ++ goods 4 ++ [] ∧
    (goods 4).length = setModeCost s.params s.serialOpen ∧ (goods 4).length = setModeCost s.params true ∧
    (∀ a ∈ goods 4 ++ goods 4, a.Good) ∧ good.fails = false ∧ (gives f).fails = false ∧ (gives f).rx = some f ∧
    f.b0 = 0xC3 := by decide

/-- V54 and V57 (b): each read gets the other's response. -/
theorem witness_WrongResponseHeader :
    let f : Frame6 := ⟨0xC3, 1, 2, 3, 0, 0⟩
    let s := startWith (goods 4 ++ [good, gives f] ++ goods 4 ++ [])
    waitFits s.params s.params.readySamples = true ∧ s.answers = goods 4 ++ [good, gives f] ++ goods 4 ++ [] ∧
    (goods 4).length = setModeCost s.params s.serialOpen ∧ (goods 4).length = setModeCost s.params true ∧
    (∀ a ∈ goods 4 ++ goods 4, a.Good) ∧ good.fails = false ∧ (gives f).fails = false ∧ (gives f).rx = some f ∧
    (f.b0 ≠ 0xC0 ∧ f.b0 ≠ 0xC2) ∧ ((gives v1Frame).rx = some v1Frame ∧ v1Frame.b0 ≠ 0xC3) := by decide

/-- V51 and V52. -/
theorem witness_ReadTimeout :
    let s := startWith (goods 4 ++ [good, good] ++ goods 4 ++ [])
    waitFits s.params s.params.readySamples = true ∧ s.answers = goods 4 ++ [good, good] ++ goods 4 ++ [] ∧
    (goods 4).length = setModeCost s.params s.serialOpen ∧ (goods 4).length = setModeCost s.params true ∧
    (∀ a ∈ goods 4 ++ goods 4, a.Good) ∧ good.fails = false ∧ good.rx = none ∧
    s.params.restoreOnReadTimeout = true ∧
    (startOf { Config.params with restoreOnReadTimeout := false } []).params.restoreOnReadTimeout = false := by decide

/-- The restoring SET_MODE raises (a READY timeout in its wait), its busy read fails, and its open fails (V56). -/
theorem witness_RestoreFailureReplacesTimeout :
    (let s := startWith (goods 4 ++ [good, good] ++ (goods 1 ++ [io] ++ []))
     waitFits s.params s.params.readySamples = true ∧ s.params.restoreOnReadTimeout = true ∧
     s.answers = goods 4 ++ [good, good] ++ (goods 1 ++ [io] ++ []) ∧
     (goods 4).length = setModeCost s.params s.serialOpen ∧ (∀ a ∈ goods 4, a.Good) ∧
     good.fails = false ∧ good.rx = none ∧
     (goods 1).length = lineCost s.params ∧ (∀ a ∈ goods 1, a.fails = false) ∧ io.fails = true ∧
     (goods 2).length = lineCost s.params + s.params.readySamples ∧ (∀ a ∈ goods 2, a.Good)) ∧
    (startWith (goods 4 ++ [good, good] ++ (goods 2 ++ [good, io] ++ []))).answers =
      goods 4 ++ [good, good] ++ (goods 2 ++ [good, io] ++ []) ∧
    (let p : Params := { Config.params with readyTimeoutMs := some 0 }
     let s := startOf p []
     waitFits p p.readySamples = true ∧
     ∃ t, runSeq (setModeLines p .normal)
       { s.inMode .program with answers := [good, low], seq := ⟨[], false, .timeout⟩ } = .raised .timeoutReady t) :=
  ⟨by decide, by decide, by decide, _, rfl⟩

theorem witness_WriteCfgCompletes :
    let s := startWith (goods 4 ++ [good] ++ goods 4 ++ [])
    waitFits s.params s.params.readySamples = true ∧ s.answers = goods 4 ++ [good] ++ goods 4 ++ [] ∧
    (goods 4).length = setModeCost s.params s.serialOpen ∧ (goods 4).length = setModeCost s.params true ∧
    (∀ a ∈ goods 4 ++ goods 4, a.Good) ∧ good.fails = false := by decide

theorem witness_ResetModuleCompletes :
    let s := startWith (goods 4 ++ [good] ++ goods 1 ++ goods 4 ++ [])
    waitFits s.params s.params.readySamples = true ∧ s.answers = goods 4 ++ [good] ++ goods 1 ++ goods 4 ++ [] ∧
    (goods 4).length = setModeCost s.params s.serialOpen ∧ (goods 1).length = s.params.readySamples ∧
    (goods 4).length = setModeCost s.params true ∧ (∀ a ∈ goods 4 ++ goods 1 ++ goods 4, a.Good) ∧
    good.fails = false := by decide

/-- The SerialWrite fails, and the SerialRead fails. -/
theorem witness_FailedSendLeavesProgram :
    (let s := startWith (goods 4 ++ [io] ++ [])
     waitFits s.params s.params.readySamples = true ∧ s.answers = goods 4 ++ [io] ++ [] ∧
     (goods 4).length = setModeCost s.params s.serialOpen ∧ (∀ a ∈ goods 4, a.Good) ∧ io.fails = true) ∧
    (let s := startWith (goods 4 ++ [good, io] ++ [])
     s.answers = goods 4 ++ [good, io] ++ [] ∧ good.fails = false) := by decide

/-- P1. -/
theorem witness_InitializeCompletes :
    let v : Frame6 := ⟨0xC3, 1, 2, 3, 0, 0⟩
    boot.answers = [good, good, good] ++ goods 3 ++ goods 4 ++ [good, gives v] ++ goods 4 ++ goods 4 ++
      [good, gives v1Frame] ++ goods 4 ++ [] ∧
    waitFits boot.params boot.params.readySamples = true ∧
    (∀ d ∈ [good, good, good, good, gives v, good, gives v1Frame], d.fails = false) ∧
    (goods 3).length = setModeCost boot.params boot.serialOpen ∧
    (∀ l ∈ [goods 4, goods 4, goods 4, goods 4], l.length = setModeCost boot.params true) ∧
    (∀ a ∈ goods 3 ++ goods 4 ++ goods 4 ++ goods 4 ++ goods 4, a.Good) ∧ (gives v).rx = some v ∧ v.b0 = 0xC3 ∧
    (gives v1Frame).rx = some v1Frame ∧ decodeCfgFrame boot.params.powerTable v1Frame = .ok v1 := by decide

/-- An enclosed step that raises (V61), and an INITIALIZE that ends. -/
theorem witness_InitializeWrapsEveryError :
    (∃ e t, runSeq (initLines start.params) (startWith (goods 20)).idle = .raised e t ∧ e = .timeoutRead) ∧
    ∃ t, exec .initBlock (startWith (goods 20)) = .next t ∧ t.IsIdle :=
  ⟨⟨_, _, rfl, rfl⟩, _, rfl, by decide⟩

theorem witness_FailedDirectionWrite : io.fails = true ∧ good.fails = false ∧
    (startWith [io]).answers = io :: [] ∧ (startWith [good, io]).answers = good :: io :: [] ∧
    (startWith [good, good, io]).answers = good :: good :: io :: [] := by decide

/-- A SerialWrite of each kind, with an answer of each kind and with none listed; and a block that stands before none. -/
theorem witness_FramesAreSent :
    (∀ y ∈ [good, io],
      (sending (.send [0xC1, 0xC1, 0xC1]) v1 [y]).seq.todo =
        .send [0xC1, 0xC1, 0xC1] :: (sending (.send [0xC1, 0xC1, 0xC1]) v1 [y]).seq.todo.tail ∧
      (sending (.send [0xC1, 0xC1, 0xC1]) v1 [y]).answers = y :: []) ∧
    (let s := sending .sendCfgIn v1 []
     s.seq.todo = .sendCfgIn :: s.seq.todo.tail ∧ s.answers = [] ∧
       (encodeCfgFrame s.params.powerTable s.cfgIn).bytes = (v1Fields.toFrame 0xC0).bytes) ∧
    good.fails = false ∧ io.fails = true ∧ start.seq.todo = [] := by decide

/-- READ_CFG and READ_VER up to the read; a response at each read; and a block at no read, idle and in a wait. -/
theorem witness_ResponsesAreAccepted :
    (let s := startWith (goods 4 ++ [good])
     waitFits s.params s.params.readySamples = true ∧ s.answers = goods 4 ++ [good] ∧
     (goods 4).length = setModeCost s.params s.serialOpen ∧ (∀ a ∈ goods 4, a.Good) ∧ good.fails = false) ∧
    (∀ accept ∈ [Action.acceptCfg, .acceptVer],
      let s := reading accept (goods 4 ++ [low])
      s.answers = goods 4 ++ [low] ∧ (goods 4).length = setModeCost s.params s.serialOpen ∧
      s.seq = ⟨restOfRead s.params accept, false, .nothing⟩) ∧
    (∀ todo, start.seq.todo ≠ .receive :: todo) ∧
    ∀ todo, ({ start with seq := ⟨[.poll 0 0, .resultOk], false, .nothing⟩ } : State).seq.todo ≠ .receive :: todo :=
  ⟨by decide, by decide, by (intro _ h; cases h), by (intro _ h; cases h)⟩

theorem witness_ResetMeetsInvariant : 1 ≤ Config.params.readySamples := by decide

/-- The invariant holds of a state with a filled cache and configured pins, and that state steps. -/
theorem witness_StepKeepsInvariant :
    let s : State := { start with cfgCache := some v1, gpioDir := ⟨.input, .output, .output⟩
                                  inputs := [.issue (.cmd 0x0002)] }
    s.Inv ∧ ∃ t, step s = .next t :=
  ⟨⟨by decide, by decide, .inr (.inl ⟨.normal, rfl⟩), by intro c h; cases h; decide⟩, _, rfl⟩

/-- A step that writes RESULT, one that writes ERR_INFO, and one that performs an event. -/
theorem witness_steps :
    after (step { start with inputs := [.issue (.cmd 0x000B)] }) (fun t => t.result) = some 0x05 ∧
    after (step { start with inputs := [.issue (.cmd 0x0003)] }) (fun t => t.errInfo) = some 0x00 ∧
    after (step (sending (.send [0xC4, 0xC4, 0xC4]) v1 [good])) (fun t => t.trace.length) = some 1 := by decide

theorem witness_CachesAndDirectionsAreReadByNothing : ∃ t, exec .waitReady (startWith [good]) = .next t := ⟨_, rfl⟩

/-- A response at its read fills each cache, and so does the command that reads. -/
theorem witness_CachesAreWrittenOnlyByReads :
    after (exec (.wireParamsResponsePersist v1Fields) (reading .acceptCfg (goods 4))) (fun t => t.cfgCache) =
      some (some v1) ∧
    after (exec (.wireVersionResponse ⟨1, 2, 3, 0, 0⟩) (reading .acceptVer (goods 4))) (fun t => t.verCache) =
      some (some ⟨1, 2, 3⟩) ∧
    after (step { startWith (goods 5 ++ [gives v1Frame] ++ goods 4) with inputs := [.issue (.cmd 0x0006)] })
      (fun t => t.cfgCache) = some (some v1) ∧
    (reading .acceptCfg []).cfgCache = none ∧ start.cfgCache = none ∧ start.verCache = none := by decide

/-- An operation in its wait; one at its SerialRead for which bytes arrive; and one at its SerialWrite with its frame the
next move. -/
theorem witness_OperationsDoNotOverlap :
    (let s : State := { startWith [low] with seq := ⟨[.poll 0 0, .resultOk], false, .nothing⟩ }
     s.seq.todo ≠ [] ∧ ∃ t, step s = .next t) ∧
    (let s : State := { reading .acceptCfg (goods 4) with inputs := [.issue (.rx v1Frame)] }
     s.seq.todo ≠ [] ∧ ∃ t, step s = .next t ∧ s.inputs = .issue (.rx v1Frame) :: t.inputs) ∧
    (let s : State := { sending .sendCfgIn v1 [good] with inputs := [.issue (.tx v1Frame.bytes)] }
     s.seq.todo ≠ [] ∧ ∃ t, step s = .next t ∧ s.inputs = .issue (.tx v1Frame.bytes) :: t.inputs) :=
  ⟨⟨by decide, _, rfl⟩, ⟨by decide, _, rfl, rfl⟩, by decide, _, rfl, rfl⟩

/-- A sequence that sends. -/
theorem witness_FramesAreSentOnlyInProgram :
    after (exec .writeCfg (startWith (goods 9))) (fun t => (t.trace.length, sendsInProgram t.params false t.trace)) =
      some (11, true) := by decide

/-- A sequence that stands before its SerialWrite, in Program, and one that has its SET_MODE(Program) still to come, each
going on to send its frame. -/
theorem witness_EveryStepSendsOnlyInProgram :
    (let s := sending .sendCfgIn v1 (goods 5)
     s.SendsInProgram ∧ s.portInProgram = true ∧
       after (step s) (fun t => sendsInProgram s.params true t.trace && t.trace.any (· = sent s.params v1Frame.bytes)) =
         some true) ∧
    (let s : State := { startWith (goods 9) with
      cfgIn := v1, seq := ⟨writeCfgLines start.params ++ [.resultOk], false, .nothing⟩ }
     s.SendsInProgram ∧ s.portInProgram = false ∧
       after (step s) (fun t => sendsInProgram s.params false t.trace && t.trace.any (· = sent s.params v1Frame.bytes)) =
         some true) :=
  ⟨⟨by unfold State.SendsInProgram; decide, by decide⟩, by unfold State.SendsInProgram; decide, by decide⟩

/-- Steps that drive the lines and that send a frame: in an operation in progress, and as the host's command word. -/
theorem witness_LinesAndFramesOnlyInsideOperations :
    (let s := driving Config.params .program (goods 1)
     after (step s) (fun t => decide (t.lineB ≠ s.lineB)) = some true) ∧
    (let s : State := { startWith (goods 1) with inputs := [.issue (.cmd 0x0301)] }
     after (step s) (fun t => decide (t.lineB ≠ s.lineB)) = some true) ∧
    (let s := sending .sendCfgIn v1 [good]
     after (step s) (fun t => t.trace.drop s.trace.length) = some [sent s.params v1Frame.bytes]) ∧
    (let s : State := { startWith (goods 5) with cfgIn := v1, inputs := [.issue (.cmd 0x0007)] }
     after (step s) (fun t => (t.trace.drop s.trace.length).any (· = sent s.params v1Frame.bytes)) = some true) ∧
    start.seq.todo = [] := by decide

/-- Each operation, ending with OK. -/
theorem witness_MinimumDelays :
    (∀ i ∈ [Instr.waitReady, .setMode .normal, .setMode .wakeup, .setMode .powerSaving, .setMode .program, .writeCfg,
        .resetModule],
      after (exec i (startWith (goods 20))) (fun t => (t.result, decide t.IsIdle)) = some (0x00, true)) ∧
    after (exec .readCfg (startWith (goods 5 ++ [gives v1Frame] ++ goods 4))) (fun t => (t.result, decide t.IsIdle)) =
      some (0x00, true) ∧
    after (exec .initBlock boot) (fun t => (t.result, decide t.IsIdle)) = some (0x00, true) := by decide

/-- Steps that stop: bytes to send that are no frame, with no operation in progress, and where one stands at sending them. -/
theorem witness_OnlyBadFramesStopTheMachine :
    after (step { start with inputs := [.issue (.tx [0x00])] }) (fun _ => ()) = none ∧
    after (step { sending (.send [0x00]) v1 [good] with inputs := [.issue (.tx [0x00])] }) (fun _ => ()) = none ∧
    after (step { sending (.send [0xC4, 0xC4, 0xC4]) v1 [good] with inputs := [.issue (.tx [0x00])] })
      (fun t => t.trace.length) = some 1 := by decide

/-- V53's kind of answer, with no operation in progress and at the read of READ_CFG. -/
theorem witness_UnknownResponseHeader :
    let f : Frame6 := ⟨0xFF, 0xFF, 0xFF, 0xFF, 0xFF, 0xFF⟩
    (let s : State := { start with inputs := [.issue (.rx f)] }
     s.seq.todo = [] ∧ s.inputs = .issue (.rx f) :: [] ∧ f.b0 ≠ 0xC0 ∧ f.b0 ≠ 0xC2 ∧ f.b0 ≠ 0xC3) ∧
    (let s : State := { reading .acceptCfg (goods 4 ++ [low]) with inputs := [.issue (.rx f)] }
     s.inputs = .issue (.rx f) :: [] ∧ s.seq = ⟨restOfRead s.params .acceptCfg, false, .nothing⟩ ∧
     waitFits s.params s.params.readySamples = true ∧ s.answers = goods 4 ++ [low] ∧
     (goods 4).length = setModeCost s.params s.serialOpen ∧ ∀ a ∈ goods 4, a.Good) := by decide

end Sys2Proof.Tests
end

section
/-! The step lemma of the invariant (R8, R9, R27 to R29, R103, R123): every update that a step is made of keeps it.
Four kinds of update touch what the invariant speaks of (a pin's direction, the port opened, the port lost, a decoded
register cached) and have a lemma each; all others are frames (`State.Inv.of_frame`). -/

namespace Sys2Proof.Machine

open Sys2Proof

/-- Going from s to t does not lose the invariant. -/
abbrev KeepsInv (s t : State) : Prop := s.Inv → t.Inv

/-- A state with the same parameters, directions, port settings and cached register, and with no free value given back,
meets the invariant too. -/
theorem State.Inv.of_frame {s t : State} (h : s.Inv) (params : t.params = s.params := by rfl)
    (dirs : t.gpioDir = s.gpioDir := by rfl) (port : t.serialCfg = s.serialCfg := by rfl)
    (cache : t.cfgCache = s.cfgCache := by rfl) (draws : s.draws ≤ t.draws := by exact Nat.le_refl _) : t.Inv where
  samples := by rw [params]; exact h.samples
  dirs := by rw [dirs]; exact h.dirs
  port := by
    rw [port, params]
    obtain hnone | hset | ⟨n, hn, hfree⟩ := h.port
    · exact .inl hnone
    · exact .inr (.inl hset)
    · exact .inr (.inr ⟨n, hn.trans_le draws, hfree⟩)
  cache := by rw [cache, params]; exact h.cache

/-- INITIALIZE gives PIN_BUSY a legal direction (R27, R171). -/
theorem State.Inv.setBusy {s : State} (h : s.Inv) :
    State.Inv { s with gpioDir := { s.gpioDir with busy := .input } } :=
  have ⟨_, modeA, modeB⟩ := h.dirs
  ⟨h.samples, ⟨.inr rfl, modeA, modeB⟩, h.port, h.cache⟩

/-- INITIALIZE gives PIN_MODE_A a legal direction (R27, R171). -/
theorem State.Inv.setModeA {s : State} (h : s.Inv) :
    State.Inv { s with gpioDir := { s.gpioDir with modeA := .output } } :=
  have ⟨busy, _, modeB⟩ := h.dirs
  ⟨h.samples, ⟨busy, .inr rfl, modeB⟩, h.port, h.cache⟩

/-- INITIALIZE gives PIN_MODE_B a legal direction (R27, R171). -/
theorem State.Inv.setModeB {s : State} (h : s.Inv) :
    State.Inv { s with gpioDir := { s.gpioDir with modeB := .output } } :=
  have ⟨busy, modeA, _⟩ := h.dirs
  ⟨h.samples, ⟨busy, modeA, .inr rfl⟩, h.port, h.cache⟩

/-- A successful open leaves the settings of a mode (R9, R101, R103). -/
theorem State.Inv.openPort {s : State} (h : s.Inv) (m : Mode) :
    State.Inv { s with serialOpen := true, serialCfg := some (serialCfgOf s.params m) } :=
  ⟨h.samples, h.dirs, .inr (.inl ⟨m, congrArg some (serialCfgOf_eq s.params m)⟩), h.cache⟩

/-- A failed close or open leaves the free value it draws (R103). -/
theorem State.Inv.losePort {s : State} (h : s.Inv) : s.losePort.Inv :=
  ⟨h.samples, h.dirs, .inr (.inr ⟨s.draws, Nat.lt_succ_self _, rfl⟩), h.cache⟩

/-- Whatever frame decoding accepts, it gives a canonical register (R121, R123). -/
theorem decodeCfgFrame_canonical {pt : PowerTable} {f : Frame6} {c : ConfigurationRegister}
    (h : decodeCfgFrame pt f = .ok c) : c.Canonical pt := by
  unfold decodeCfgFrame at h
  split at h
  · cases h; exact decodeFields_canonical pt true _
  · split at h
    · cases h; exact decodeFields_canonical pt false _
    · cases h

/-- A decoded response may be cached (R29, R160). -/
theorem State.Inv.cacheCfg {s : State} (h : s.Inv) {f : Frame6} {c : ConfigurationRegister}
    (hc : decodeCfgFrame s.params.powerTable f = .ok c) : State.Inv { s with cfgOut := c, cfgCache := some c } where
  samples := h.samples
  dirs := h.dirs
  port := h.port
  cache := by rintro _ ⟨⟩; exact decodeCfgFrame_canonical hc

/-- Every line of pseudocode keeps the invariant. -/
theorem runAction_keepsInv (a : Action) (s : State) : KeepsInv s (runAction a s).state :=
  runAction_rel a KeepsInv (refl := fun _ h => h) (trans := fun _ _ _ hst htu h => htu (hst h))
    (ans := fun _ _ h => h.of_frame) (rec := fun _ _ _ h => h.of_frame) (hold := fun _ _ h => h.of_frame)
    (d1 := fun _ _ h => h.setBusy) (d2 := fun _ _ h => h.setModeA) (d3 := fun _ _ h => h.setModeB)
    (la := fun _ _ h => h.of_frame) (lb := fun _ _ h => h.of_frame)
    (fa := fun _ h => h.of_frame (draws := Nat.le_succ _)) (fb := fun _ h => h.of_frame (draws := Nat.le_succ _))
    (md := fun _ _ h => h.of_frame) (cl := fun _ h => h.of_frame)
    (op := fun _ m h => h.openPort m) (lp := fun _ h => h.losePort) (res := fun _ h => h.of_frame)
    (ac := fun _ _ _ _ hc h => h.cacheCfg hc) (av := fun _ _ _ h => h.of_frame) s

/-- Settles O46: by `step_rel`, a step is lines of pseudocode (`runAction_keepsInv`) and updates that are frames of the
invariant. -/
theorem stepKeepsInvariant : Obligations.StepKeepsInvariant := by
  unfold Obligations.StepKeepsInvariant
  intro s t hs hstep
  exact step_rel KeepsInv (refl := fun _ h => h) (trans := fun _ _ _ hst htu h => htu (hst h))
    (line := runAction_keepsInv)
    (seq := fun _ _ h => h.of_frame) (raise := fun _ _ _ h => h.of_frame) (ill := fun _ h => h.of_frame)
    (inp := fun _ _ h => h.of_frame) (cm := fun _ _ h => h.of_frame)
    (fi := fun _ _ h => h.of_frame) (ci := fun _ _ h => h.of_frame)
    (sup := supply_rel KeepsInv (fun _ h => h) (fun _ _ _ h => h.of_frame)) (rec := fun _ _ _ h => h.of_frame)
    (dc := fun _ _ h => h.of_frame) (ec := fun _ _ h => h.of_frame) (dv := fun _ _ h => h.of_frame)
    s t hstep hs

end Sys2Proof.Machine
end

section
/-! Reset (R31, R231) and what a step does with the host's next word (R20, R24). -/

namespace Sys2Proof.Machine

open Sys2Proof

/-- Settles O8: the spec's reset values are the ones `State.resetWith` writes, and with no move of the host and no
operation in progress the step leaves the state. -/
theorem resetStateOfSpec : Obligations.ResetStateOfSpec :=
  fun _ => ⟨rfl, rfl, rfl, rfl, rfl, rfl, rfl, rfl, rfl⟩

/-- Settles O45: the pins are unconfigured, the port has no settings and no register is cached. -/
theorem resetMeetsInvariant : Obligations.ResetMeetsInvariant := fun _ hsamples => {
  samples := hsamples
  dirs := ⟨.inl rfl, .inl rfl, .inl rfl⟩
  port := .inl rfl
  cache := nofun }

/-- Settles O55: no line is left to run. -/
theorem resetSendsOnlyInProgram : Obligations.ResetSendsOnlyInProgram :=
  fun _ => rfl

/-- A word that is taken up and decodes is executed. -/
theorem step_of_fetch_word {s u : State} {w : FetchWord} {i : Instr} (hf : s.fetch = .word w u)
    (hd : decode w = .ok i) : step s = exec i u := by
  simp only [step, hf, hd]

/-- Settles O6: `fetch` takes the word up in each of the three cases, and `step_of_fetch_word` runs it. -/
theorem stepRunsDecodedInstruction : Obligations.StepRunsDecodedInstruction := by
  unfold Obligations.StepRunsDecodedInstruction
  intro s w rest i hinputs hdecode
  refine ⟨fun hidle => ⟨?_, fun hword => ?_⟩, fun a todo htodo hstands => ?_⟩
  · rintro c rfl
    exact step_of_fetch_word (fetch_idle_cmd hidle hinputs) hdecode
  · exact step_of_fetch_word (fetch_idle_word hidle hinputs hword) hdecode
  · exact step_of_fetch_word (fetch_stands htodo hinputs hstands) hdecode

end Sys2Proof.Machine
end

section
/-! What an instruction and a step can do, said once. A host operation, bytes that arrive, a word that is put out and
an operation that goes on are all a run of lines (`Ran`); `exec_effect` says which lines an instruction runs,
`step_cases` what a step takes up. -/

namespace Sys2Proof.Machine

open Sys2Proof

/-- The state `u` that a run begins in: `s`, but for the operation's own place, the record of events and the answers
listed and drawn. -/
def Begins (s u : State) : Prop :=
  ∃ q ev as n, u = { s with seq := q, trace := ev, answers := as, asked := n }

theorem Begins.refl (s : State) : Begins s s := ⟨_, _, _, _, rfl⟩

theorem Begins.supply (s : State) : Begins s s.supply :=
  supply_rel Begins Begins.refl (fun _ _ _ => ⟨_, _, _, _, rfl⟩) s

/-- `t` is a state in which a run of the lines `l`, begun in `s`, leaves the block. -/
def Ran (l : List Action) (s t : State) : Prop :=
  ∃ u wrap r, Begins s u ∧ r.state = (runSeq l u).state ∧ t = conclude wrap r

theorem Ran.runOp (wrap : Bool) (l : List Action) (s : State) : Ran l s (runOp wrap l s) :=
  ⟨s.idle, wrap, _, ⟨_, _, _, _, rfl⟩, rfl, rfl⟩

theorem Ran.resume (s : State) : Ran s.seq.todo s s.resume :=
  ⟨s.supply, _, _, .supply s, rfl, rfl⟩

theorem Ran.deliver {s : State} {todo : List Action} (h : s.seq.todo = .receive :: todo) (f : Frame6) :
    Ran todo s (s.deliver f) :=
  ⟨_, _, _, ⟨_, _, _, _, rfl⟩, rfl, deliver_reading h f⟩

@[simp] theorem Run.state_standsBefore (rest : List Action) (r : Run) : (r.standsBefore rest).state = r.state := by
  cases r <;> rfl

theorem Ran.perform {s : State} {w : FetchWord} (h : s.linesOf w ≠ 0) :
    Ran (s.seq.todo.take (s.linesOf w)) s (s.perform w) :=
  ⟨s.supply, _, _, .supply s, Run.state_standsBefore _ _, perform_part h⟩

/-- `runAction_view` with the premises that hold by definition filled in: a view that no line writes needs no premise, and
one that a direction or a response is part of needs those of the lines that write it. -/
theorem runAction_keeps (a : Action) {α : Type} (v : State → α) (s : State)
    (d1 : a = .setDirBusy → ∀ s : State, v { s with gpioDir := { s.gpioDir with busy := .input } } = v s := by
      exact fun _ _ => rfl)
    (d2 : a = .setDirModeA → ∀ s : State, v { s with gpioDir := { s.gpioDir with modeA := .output } } = v s := by
      exact fun _ _ => rfl)
    (d3 : a = .setDirModeB → ∀ s : State, v { s with gpioDir := { s.gpioDir with modeB := .output } } = v s := by
      exact fun _ _ => rfl)
    (ac : a = .acceptCfg → ∀ (s : State) c, v { s with cfgOut := c, cfgCache := some c } = v s := by
      exact fun _ _ _ => rfl)
    (av : a = .acceptVer → ∀ (s : State) w, v { s with verOut := w, verCache := some w } = v s := by
      exact fun _ _ _ => rfl)
    (ans : ∀ s as, v (s.withAnswers as) = v s := by exact fun _ _ => rfl)
    (rec : ∀ s p r, v (s.record p r) = v s := by exact fun _ _ _ => rfl)
    (hold : ∀ s h, v (s.hold h) = v s := by exact fun _ _ => rfl)
    (lineA : ∀ s l, v (s.withLineA l) = v s := by exact fun _ _ => rfl)
    (lineB : ∀ s l, v (s.withLineB l) = v s := by exact fun _ _ => rfl)
    (loseA : ∀ s : State, v s.loseLineA = v s := by exact fun _ => rfl)
    (loseB : ∀ s : State, v s.loseLineB = v s := by exact fun _ => rfl)
    (mode : ∀ (s : State) m, v { s with mode := m } = v s := by exact fun _ _ => rfl)
    (close : ∀ s : State, v { s with serialOpen := false } = v s := by exact fun _ => rfl)
    (openPort : ∀ (s : State) m, v { s with serialOpen := true, serialCfg := some (serialCfgOf s.params m) } = v s := by
      exact fun _ _ => rfl)
    (losePort : ∀ s : State, v s.losePort = v s := by exact fun _ => rfl)
    (result : ∀ s : State, v (s.withResult codeOk) = v s := by exact fun _ => rfl) :
    v (runAction a s).state = v s :=
  runAction_view a v ans rec hold d1 d2 d3 lineA lineB loseA loseB mode close openPort losePort result
    (fun ha s _ c _ => ac ha s c) av s

/-- What the sequencer's place and a raise leave alone, the end of a run leaves alone. -/
theorem conclude_view {α : Type} (v : State → α) (wrap : Bool) (r : Run)
    (begins : ∀ s u, Begins s u → v u = v s := by rintro _ _ ⟨_, _, _, _, rfl⟩; rfl)
    (raise : ∀ s wrap e, v (s.raise wrap e) = v s := by exact fun _ _ _ => rfl) : v (conclude wrap r) = v r.state := by
  cases r with
  | done x => exact begins x _ ⟨_, _, _, _, rfl⟩
  | awaits todo x => exact begins x _ ⟨_, _, _, _, rfl⟩
  | raised e x => exact raise x wrap e

/-- What each line leaves alone, a run of them leaves alone. -/
theorem runSeq_view {α : Type} (v : State → α) {l : List Action}
    (line : ∀ a ∈ l, ∀ s, v (runAction a s).state = v s) (s : State) : v (runSeq l s).state = v s :=
  runSeq_rel (· ∈ l) (fun s t => v t = v s) (fun _ => rfl) (fun _ _ _ hst htu => htu.trans hst) line l s fun _ ha => ha

/-- What each of its lines, its beginning and a raise leave alone, a run leaves alone. -/
theorem Ran.view {l : List Action} {s t : State} (h : Ran l s t) {α : Type} (v : State → α)
    (line : ∀ a ∈ l, ∀ s, v (runAction a s).state = v s)
    (begins : ∀ s u, Begins s u → v u = v s := by rintro _ _ ⟨_, _, _, _, rfl⟩; rfl)
    (raise : ∀ s wrap e, v (s.raise wrap e) = v s := by exact fun _ _ _ => rfl) : v t = v s := by
  obtain ⟨u, wrap, r, hu, hr, rfl⟩ := h
  calc v (conclude wrap r) = v r.state := conclude_view v wrap r begins raise
    _ = v u := hr ▸ runSeq_view v line u
    _ = v s := begins s u hu

/-- What a codec operation does (R121, R130, R140): it writes an output register, or raises ProtocolError. -/
def Coded (s t : State) : Prop :=
  (∃ c f v, t = { s.idle with cfgOut := c, frameOut := f, verOut := v, result := codeOk }) ∨
    ∃ h, t = s.raise false (.protocol h)

/-- The lines of a host operation that is run as lines (R101, R104, R160 to R171). -/
def hostLines (p : Params) : Instr → List Action
  | .setMode m => setModeLines p m ++ [.resultOk]
  | .waitReady => waitReadyLines ++ [.resultOk]
  | .readCfg => readCfgLines p ++ [.resultOk]
  | .writeCfg => writeCfgLines p ++ [.resultOk]
  | .readVer => readVerLines p ++ [.resultOk]
  | .resetModule => resetModuleLines p ++ [.resultOk]
  | .initBlock => initLines p ++ [.resultOk]
  | _ => []

/-- What an instruction can do: a host operation runs its lines, a codec operation codes, a response is read by the
operation standing at its SerialRead, a code or a frame is put out by the one standing before it, or nothing changes. -/
inductive Effect (i : Instr) (s t : State) : Prop
  | operation (ran : Ran (hostLines s.params i) s t)
  | coded (h : Coded s t)
  | response (f : Frame6) (rx : encode i = .rx f) (todo : List Action) (reads : s.seq.todo = .receive :: todo)
      (ran : Ran todo s t)
  | putOut (w : FetchWord) (l : List Action) (stands : ∀ a ∈ l, a.standsAt s w = true) (ran : Ran l s t)
  | nothing (same : t = s)

theorem execDecodeCfg_coded {s t : State} (h : exec .decodeCfg s = .next t) : Coded s t := by
  simp only [exec, execDecodeCfg, Host.Outcome.next.injEq] at h
  subst h
  split
  · exact .inl ⟨_, _, _, rfl⟩
  · exact .inr ⟨_, rfl⟩

theorem execDecodeVer_coded {s t : State} (h : exec .decodeVer s = .next t) : Coded s t := by
  simp only [exec, execDecodeVer, Host.Outcome.next.injEq] at h
  subst h
  split
  · exact .inl ⟨_, _, _, rfl⟩
  · exact .inr ⟨_, rfl⟩

/-- Bytes that arrive are read by the operation that stands at its SerialRead, or change nothing (R30, R161). -/
theorem deliver_cases (s : State) (f : Frame6) :
    (∃ todo, s.seq.todo = .receive :: todo ∧ Ran todo s (s.deliver f)) ∨ s.deliver f = s := by
  by_cases h : ∃ todo, s.seq.todo = .receive :: todo
  · obtain ⟨todo, htodo⟩ := h
    exact .inl ⟨todo, htodo, .deliver htodo f⟩
  · exact .inr (deliver_not_reading (not_exists.1 h) f)

theorem deliver_effect (i : Instr) (s : State) (f : Frame6) (rx : encode i = .rx f) : Effect i s (s.deliver f) := by
  obtain ⟨todo, htodo, ran⟩ | same := deliver_cases s f
  · exact .response f rx todo htodo ran
  · exact .nothing same

theorem perform_effect (i : Instr) (s : State) (w : FetchWord) : Effect i s (s.perform w) := by
  by_cases h : s.linesOf w = 0
  · exact .nothing (by simp only [State.perform, h, if_pos])
  · exact .putOut w _ (fun _ => standsAt_of_mem_linesOf) (.perform h)

/-- Every instruction has one of the effects. -/
theorem exec_effect {i : Instr} {s t : State} (h : exec i s = .next t) : Effect i s t := by
  cases i with
  | decodeCfg => exact .coded (execDecodeCfg_coded h)
  | decodeVer => exact .coded (execDecodeVer_coded h)
  | encodeCfg => cases h; exact .coded (.inl ⟨_, _, _, rfl⟩)
  | wireParamsResponsePersist | wireParamsResponseVolatile | wireVersionResponse =>
    cases h; exact deliver_effect _ s _ rfl
  | modeNormal | modeWakeup | modePowerSaving | modeProgram | wireReadParams | wireReadVersion | wireReset
  | wireWritePersist | wireWriteVolatile => cases h; exact perform_effect _ s _
  | setMode | waitReady | readCfg | writeCfg | readVer | resetModule | initBlock =>
    cases h; exact .operation (.runOp _ _ s)

/-- Bytes to send are rejected only as no frame. -/
theorem decode_tx_error {bytes : List Byte} {r : Reject} (h : decode (.tx bytes) = .error r) : r = .notAFrame := by
  change decodeTx bytes = _ at h
  unfold decodeTx at h
  split at h
  · split_ifs at h
    all_goals cases h; rfl
  · dsimp only at h
    split_ifs at h
    cases h; rfl
  · cases h; rfl

/-- A word that is no instruction is an illegal command or six bytes that arrive, if the machine goes on. -/
theorem rejected_cases {w : FetchWord} {r : Reject} {s t : State} (hd : decode w = .error r)
    (h : s.rejected w r = .next t) : (∃ c, w = .cmd c ∧ t = s.illegalOp) ∨ ∃ f, w = .rx f ∧ t = s.deliver f := by
  cases w with
  | cmd c =>
    obtain ⟨o, rfl⟩ | rfl | rfl := decodeCmd_error c r hd <;> cases h <;> exact .inl ⟨c, rfl, rfl⟩
  | lines c => cases hd
  | tx bytes => rw [decode_tx_error hd] at h; cases h
  | rx f => rw [decode_rx_error hd] at h; cases h; exact .inr ⟨f, rfl, rfl⟩

/-- What a step takes up: the operation in progress, nothing, an operand load, or a word, which is executed, refused as
an illegal command or delivered as six bytes. -/
theorem step_cases {s t : State} (h : step s = .next t) :
    t = s.resume ∨ t = s ∨ s.fetch = .loaded t ∨
      ∃ w u, s.fetch = .word w u ∧
        ((∃ i, decode w = .ok i ∧ exec i u = .next t) ∨ (∃ c, w = .cmd c ∧ t = u.illegalOp) ∨
          ∃ f, w = .rx f ∧ t = u.deliver f) := by
  unfold step at h
  split at h
  case h_1 => cases h; exact .inl rfl
  case h_2 => cases h; exact .inr (.inl rfl)
  case h_3 u hu => cases h; exact .inr (.inr (.inl hu))
  case h_4 w u hu =>
    refine .inr (.inr (.inr ⟨w, u, hu, ?_⟩))
    split at h
    case h_1 i hd => exact .inl ⟨i, hd, h⟩
    case h_2 r hd => exact .inr (rejected_cases hd h)

end Sys2Proof.Machine
end

section
/-! What no operation writes (O52), and what only a ProtocolError writes (O48): every line leaves it, so every effect of
an instruction and every step does, but for the operand loads and the host's move that a step takes. -/

namespace Sys2Proof.Machine

open Sys2Proof

/-- The state with only what no operation writes: the parameters, the registers the host writes, and its moves. -/
def State.hostSide (s : State) : State :=
  { State.reset with params := s.params, cmd := s.cmd, frameIn := s.frameIn, cfgIn := s.cfgIn, inputs := s.inputs }

theorem hostSide_eq_iff {s t : State} : t.hostSide = s.hostSide ↔
    t.params = s.params ∧ t.cmd = s.cmd ∧ t.frameIn = s.frameIn ∧ t.cfgIn = s.cfgIn ∧ t.inputs = s.inputs := by
  simp [State.hostSide]

theorem runAction_hostSide (a : Action) (s : State) : (runAction a s).state.hostSide = s.hostSide :=
  runAction_keeps a State.hostSide s

theorem runAction_errInfo (a : Action) (s : State) : (runAction a s).state.errInfo = s.errInfo :=
  runAction_keeps a State.errInfo s

theorem Ran.hostSide {l : List Action} {s t : State} (h : Ran l s t) : t.hostSide = s.hostSide :=
  h.view State.hostSide fun a _ => runAction_hostSide a

theorem Coded.hostSide {s t : State} (h : Coded s t) : t.hostSide = s.hostSide := by
  obtain ⟨_, _, _, rfl⟩ | ⟨_, rfl⟩ := h <;> rfl

theorem exec_hostSide {i : Instr} {s t : State} (h : exec i s = .next t) : t.hostSide = s.hostSide := by
  cases exec_effect h with
  | operation ran => exact ran.hostSide
  | coded h => exact h.hostSide
  | response _ _ _ _ ran => exact ran.hostSide
  | putOut _ _ _ ran => exact ran.hostSide
  | nothing same => rw [same]

theorem deliver_hostSide (s : State) (f : Frame6) : (s.deliver f).hostSide = s.hostSide := by
  obtain ⟨_, _, ran⟩ | same := deliver_cases s f
  · exact ran.hostSide
  · rw [same]

/-- An operation in progress takes no move, or the word it stands before, which is no command; the rest of the host's
side stays (R20, R56, R215). -/
theorem step_inProgress_hostSide {s t : State} (hbusy : s.seq.todo ≠ []) (h : step s = .next t) :
    t.hostSide = s.hostSide ∨ ∃ w a todo rest, s.seq.todo = a :: todo ∧ a.standsAt s w = true ∧ (∀ c, w ≠ .cmd c) ∧
      s.inputs = .issue w :: rest ∧ t.hostSide = State.hostSide { s with inputs := rest } := by
  obtain rfl | rfl | hload | ⟨w, u, hword, hdone⟩ := step_cases h
  · exact .inl (Ran.resume s).hostSide
  · exact .inl rfl
  · obtain ⟨_, _, hidle, _⟩ | ⟨_, _, hidle, _⟩ := fetch_loaded_cases hload <;> exact absurd hidle hbusy
  · obtain ⟨rest, hinputs, ⟨hidle, _⟩ | ⟨a, todo, htodo, hstands, hcmd, rfl⟩⟩ := fetch_word_cases hword
    · exact absurd hidle hbusy
    · refine .inr ⟨w, a, todo, rest, htodo, hstands, hcmd, hinputs, ?_⟩
      obtain ⟨i, _, hexec⟩ | ⟨c, hc, _⟩ | ⟨f, _, rfl⟩ := hdone
      · exact exec_hostSide hexec
      · exact absurd hc (hcmd c)
      · exact deliver_hostSide _ f

/-- Settles O52, by `step_inProgress_hostSide`. -/
theorem operationsDoNotOverlap : Obligations.OperationsDoNotOverlap := by
  unfold Obligations.OperationsDoNotOverlap
  intro s t hbusy hstep
  obtain hside | ⟨w, a, todo, rest, htodo, hstands, hcmd, hinputs, hside⟩ := step_inProgress_hostSide hbusy hstep
  · obtain ⟨_, hcmdReg, hframeIn, hcfgIn, hmoves⟩ := hostSide_eq_iff.1 hside
    exact ⟨.inl hmoves, hcmdReg, hframeIn, hcfgIn⟩
  · obtain ⟨_, hcmdReg, hframeIn, hcfgIn, rfl⟩ := hostSide_eq_iff.1 hside
    exact ⟨.inr ⟨w, a, todo, htodo, hstands, hcmd, hinputs⟩, hcmdReg, hframeIn, hcfgIn⟩

/-- ERR_INFO is as it was, or an operation has just ended with ProtocolError, wrapped or not (R204, R206). -/
def ErrInfoByProtocolError (s t : State) : Prop :=
  t.errInfo = s.errInfo ∨ (t.IsIdle ∧ (t.result = 0x04#8 ∨ t.result = 0x84#8))

theorem raise_errInfoByProtocolError (s : State) (wrap : Bool) (e : Err) :
    ErrInfoByProtocolError s (s.raise wrap e) := by
  cases e with
  | io | timeoutRead | timeoutReady => exact .inl rfl
  | protocol h => exact .inr ⟨rfl, by cases wrap <;> simp [Err.resultCode, initCode, Err.code]⟩

/-- The lines of a run leave ERR_INFO; only the raise that ends it can write it. -/
theorem Ran.errInfo {l : List Action} {s t : State} (h : Ran l s t) : ErrInfoByProtocolError s t := by
  obtain ⟨u, wrap, r, ⟨_, _, _, _, rfl⟩, hr, rfl⟩ := h
  have hrun : r.state.errInfo = s.errInfo := by
    rw [hr]
    exact runSeq_view State.errInfo (fun a _ => runAction_errInfo a) _
  cases r with
  | done x => exact .inl hrun
  | awaits todo x => exact .inl hrun
  | raised e x => exact (raise_errInfoByProtocolError x wrap e).imp_left (Eq.trans · hrun)

theorem exec_errInfo {i : Instr} {s t : State} (h : exec i s = .next t) : ErrInfoByProtocolError s t := by
  cases exec_effect h with
  | operation ran => exact ran.errInfo
  | coded h =>
    obtain ⟨_, _, _, rfl⟩ | ⟨_, rfl⟩ := h
    · exact .inl rfl
    · exact raise_errInfoByProtocolError s _ _
  | response _ _ _ _ ran => exact ran.errInfo
  | putOut _ _ _ ran => exact ran.errInfo
  | nothing same => exact .inl (by rw [same])

theorem deliver_errInfo (s : State) (f : Frame6) : ErrInfoByProtocolError s (s.deliver f) := by
  obtain ⟨_, _, ran⟩ | same := deliver_cases s f
  · exact ran.errInfo
  · exact .inl (by rw [same])

/-- Settles O48: taking up a move writes no ERR_INFO, and what the step then does writes it only by a ProtocolError. -/
theorem errInfoOnlyByProtocolError : Obligations.ErrInfoOnlyByProtocolError := by
  unfold Obligations.ErrInfoOnlyByProtocolError
  intro s t hstep
  change ErrInfoByProtocolError s t
  obtain rfl | rfl | hload | ⟨w, u, hword, hdone⟩ := step_cases hstep
  · exact (Ran.resume s).errInfo
  · exact .inl rfl
  · obtain ⟨_, _, _, _, rfl⟩ | ⟨_, _, _, _, rfl⟩ := fetch_loaded_cases hload <;> exact .inl rfl
  · have hu : u.errInfo = s.errInfo := by
      obtain ⟨_, _, ⟨_, ⟨_, _, rfl⟩ | ⟨_, rfl⟩⟩ | ⟨_, _, _, _, _, rfl⟩⟩ := fetch_word_cases hword <;> rfl
    have hut : ErrInfoByProtocolError u t := by
      obtain ⟨i, _, hexec⟩ | ⟨c, _, rfl⟩ | ⟨f, _, rfl⟩ := hdone
      · exact exec_errInfo hexec
      · exact .inl rfl
      · exact deliver_errInfo u f
    exact hut.imp_left (Eq.trans · hu)

end Sys2Proof.Machine
end

section
/-! What the Mode Controller's instructions and the command sequences leave unchanged (O28, O41), by the kinds of lines
that they are made of: lines that take up no response and set no direction (`Plain`), line writes, and lines that change
nothing but what is answered and recorded (`Quiet`). -/

namespace Sys2Proof.Machine

open Sys2Proof

/-! The lines of the operations. -/

/-- A line that takes up no response and sets no direction. -/
structure Plain (a : Action) : Prop where
  noCfg : a ≠ .acceptCfg
  noVer : a ≠ .acceptVer
  noDir : NoDir a

theorem plain_iff {a : Action} : Plain a ↔ NoAccept a ∧ NoDir a :=
  ⟨fun h => ⟨⟨h.noCfg, h.noVer⟩, h.noDir⟩, fun ⟨⟨noCfg, noVer⟩, noDir⟩ => ⟨noCfg, noVer, noDir⟩⟩

theorem Plain.noAccept {a : Action} (h : Plain a) : NoAccept a := ⟨h.noCfg, h.noVer⟩

theorem setModeLines_plain (p : Params) (m : Mode) : ∀ a ∈ setModeLines p m, Plain a := by
  intro a ha
  obtain rfl | rfl | rfl | rfl | rfl | rfl | rfl := setModeLines_mem ha <;> simp [plain_iff, NoAccept, NoDir]

/-- READ_CFG and READ_VER before the response is taken up (R160, R164). -/
def readStart (p : Params) (command : List Byte) : List Action :=
  setModeLines p .program ++ [.send command, .receive, .giveUpEarly] ++ setModeLines p .normal

theorem readCfgLines_eq (p : Params) : readCfgLines p = readStart p (wire3 Config.cmdReadParams) ++ [.acceptCfg] := rfl

theorem readVerLines_eq (p : Params) : readVerLines p = readStart p (wire3 Config.cmdReadVersion) ++ [.acceptVer] := rfl

theorem readStart_plain (p : Params) (command : List Byte) : ∀ a ∈ readStart p command, Plain a := by
  simp only [readStart, List.forall_mem_append]
  exact ⟨⟨setModeLines_plain p _, by simp [plain_iff, NoAccept, NoDir]⟩, setModeLines_plain p _⟩

theorem resultOk_plain : ∀ a ∈ [Action.resultOk], Plain a := by simp [plain_iff, NoAccept, NoDir]

theorem hostLines_setMode_plain (p : Params) (m : Mode) : ∀ a ∈ setModeLines p m ++ [.resultOk], Plain a :=
  List.forall_mem_append.2 ⟨setModeLines_plain p m, resultOk_plain⟩

theorem hostLines_waitReady_plain : ∀ a ∈ waitReadyLines ++ [.resultOk], Plain a := by
  simp [waitReadyLines, plain_iff, NoAccept, NoDir]

theorem hostLines_writeCfg_plain (p : Params) : ∀ a ∈ writeCfgLines p ++ [.resultOk], Plain a := by
  simp only [writeCfgLines, List.forall_mem_append]
  exact ⟨⟨⟨setModeLines_plain p _, by simp [plain_iff, NoAccept, NoDir]⟩, setModeLines_plain p _⟩, resultOk_plain⟩

theorem hostLines_resetModule_plain (p : Params) : ∀ a ∈ resetModuleLines p ++ [.resultOk], Plain a := by
  simp only [resetModuleLines, waitReadyLines, List.forall_mem_append]
  exact ⟨⟨⟨⟨setModeLines_plain p _, by simp [plain_iff, NoAccept, NoDir]⟩, by simp [plain_iff, NoAccept, NoDir]⟩,
    setModeLines_plain p _⟩, resultOk_plain⟩

/-- A line that a word can stand for takes up no response and sets no direction. -/
theorem standsAt_plain {s : State} {a : Action} {w : FetchWord} (h : a.standsAt s w = true) : Plain a := by
  cases a with
  | setDirBusy | setDirModeA | setDirModeB | acceptCfg | acceptVer => simp [Action.standsAt] at h
  | _ => simp [plain_iff, NoAccept, NoDir]

/-! Operations made of plain lines. -/

/-- The state with only what plain lines leave alone. -/
def State.besidesController (s : State) : State :=
  { State.reset with
    params := s.params, cmd := s.cmd, frameIn := s.frameIn, cfgIn := s.cfgIn, inputs := s.inputs, cfgOut := s.cfgOut,
    cfgCache := s.cfgCache, verOut := s.verOut, verCache := s.verCache, frameOut := s.frameOut, errInfo := s.errInfo,
    gpioDir := s.gpioDir }

/-- All but the Mode Controller's own state is the same. -/
abbrev SameBesidesController (s t : State) : Prop :=
  SameOperands s t ∧ SameCfg s t ∧ SameVer s t ∧ t.frameOut = s.frameOut ∧ t.errInfo = s.errInfo ∧ t.gpioDir = s.gpioDir

theorem besidesController_eq_iff {s t : State} : t.besidesController = s.besidesController ↔
    SameBesidesController { s with asked := t.asked } t := by
  simp only [State.besidesController, State.mk.injEq]
  tauto

theorem runAction_besidesController {a : Action} (h : Plain a) (s : State) :
    (runAction a s).state.besidesController = s.besidesController := by
  obtain ⟨noCfg, noVer, noBusy, noModeA, noModeB⟩ := h
  exact runAction_keeps a State.besidesController s (fun h => absurd h noBusy) (fun h => absurd h noModeA)
    (fun h => absurd h noModeB) (fun h => absurd h noCfg) (fun h => absurd h noVer)

theorem raise_besidesController (s : State) (wrap : Bool) {e : Err} (h : ∀ b, e ≠ .protocol b) :
    (s.raise wrap e).besidesController = s.besidesController := by
  cases e with
  | protocol b => exact absurd rfl (h b)
  | io | timeoutRead | timeoutReady => rfl

theorem runAction_asked (a : Action) (s : State) : (runAction a s).state.asked = s.asked :=
  runAction_keeps a State.asked s

/-- No operation draws an answer of the oracle as it begins (log entry 6). -/
theorem runOp_asked (wrap : Bool) (l : List Action) (s : State) : (runOp wrap l s).asked = s.asked :=
  runOp_view State.asked (fun _ => True) (fun a _ => runAction_asked a) (fun _ _ => rfl) (fun _ _ _ => rfl) wrap l
    (fun _ _ => trivial) s

/-- An operation of plain lines writes neither a register of the host's side nor a cache nor a direction. -/
theorem runOp_plain (wrap : Bool) {l : List Action} (hl : ∀ a ∈ l, Plain a) (s : State) :
    SameBesidesController s (runOp wrap l s) := by
  have h : (runOp wrap l s).besidesController = s.besidesController :=
    runOp_rel (fun s t => t.besidesController = s.besidesController) (fun _ => rfl)
      (fun _ _ _ hst htu => htu.trans hst) Plain (fun e => ∀ b, e ≠ .protocol b)
      (fun a ha => runAction_raised_of a ha.noAccept) (fun _ => runAction_besidesController) (fun _ _ => rfl)
      (fun s wrap _ he => raise_besidesController s wrap he) wrap l hl s
  obtain ⟨⟨hparams, hcmd, hframeIn, hcfgIn, hinputs, _⟩, hrest⟩ := besidesController_eq_iff.1 h
  exact ⟨⟨hparams, hcmd, hframeIn, hcfgIn, hinputs, runOp_asked wrap l s⟩, hrest⟩

/-- A word that is put out leaves the same, but for the answer that it may draw of the oracle (log entry 6). -/
theorem perform_besidesController (w : FetchWord) (s : State) :
    SameBesidesController { s with asked := (s.perform w).asked } (s.perform w) :=
  besidesController_eq_iff.1 <|
    perform_rel (fun s t => t.besidesController = s.besidesController) (fun _ => rfl)
      (fun _ _ _ hst htu => htu.trans hst) w s
      (supply_rel (fun s t => t.besidesController = s.besidesController) (fun _ => rfl) (fun _ _ _ => rfl) s)
      (fun _ ha => runAction_besidesController (standsAt_plain ha)) (fun _ _ => rfl)
      (fun t e ⟨l, u, hl, hr⟩ => raise_besidesController t _ <|
        runSeq_raised_of Plain (fun e => ∀ b, e ≠ .protocol b) (fun a ha => runAction_raised_of a ha.noAccept) l u e t
          (fun a ha => standsAt_plain (hl a ha)) hr)

/-! The lines, MODE_STATE and the port. -/

/-- What an attempt's two updates leave alone, the attempt leaves alone. -/
theorem attempt_view {α : Type} (v : State → α) (a : Action) {p : Prim} {f g : State → State} (s : State)
    (hf : ∀ t, v (f t) = v t := by exact fun _ => rfl) (hg : ∀ t, v (g t) = v t := by exact fun _ => rfl)
    (ans : ∀ s as, v (s.withAnswers as) = v s := by exact fun _ _ => rfl)
    (rec : ∀ s p r, v (s.record p r) = v s := by exact fun _ _ _ => rfl) : v (attempt a p f g s).state = v s :=
  attempt_rel (fun s t => v t = v s) (fun _ => rfl) (fun _ _ _ hst htu => htu.trans hst) ans rec a p f g hf hg s

/-- What a word that is put out leaves alone: what the lines that make it up do. -/
theorem perform_view {α : Type} (v : State → α) (w : FetchWord) (s : State)
    (line : ∀ a, a.standsAt s w = true → ∀ t, v (runAction a t).state = v t)
    (begins : ∀ s u, Begins s u → v u = v s := by rintro _ _ ⟨_, _, _, _, rfl⟩; rfl)
    (raise : ∀ s wrap e, v (s.raise wrap e) = v s := by exact fun _ _ _ => rfl) : v (s.perform w) = v s :=
  perform_rel (fun s t => v t = v s) (fun _ => rfl) (fun _ _ _ hst htu => htu.trans hst) w s (begins s _ (.supply s))
    line (fun t _ => begins t _ ⟨_, _, _, _, rfl⟩) (fun t e _ => raise t _ e)

/-- A line that changes nothing but what is answered, recorded and held in RESULT. -/
inductive Quiet : Action → Prop
  | poll (n waited : Nat) : Quiet (.poll n waited)
  | send (bytes : List Byte) : Quiet (.send bytes)
  | sendCfgIn : Quiet .sendCfgIn
  | resultOk : Quiet .resultOk

/-- The Mode Controller's state but for the directions, and the count of free values. -/
def State.controller (s : State) : State :=
  { State.reset with
    mode := s.mode, lineA := s.lineA, lineB := s.lineB, serialOpen := s.serialOpen, serialCfg := s.serialCfg,
    draws := s.draws }

theorem controller_eq_iff {s t : State} :
    t.controller = s.controller ↔ SameLines s t ∧ SamePort s t ∧ t.draws = s.draws := by
  simp only [State.controller, State.mk.injEq]
  tauto

theorem runAction_quiet_controller {a : Action} (h : Quiet a) (s : State) :
    (runAction a s).state.controller = s.controller := by
  cases h with
  | poll n waited =>
    exact pollFrom_rel (fun s t => t.controller = s.controller) (fun _ _ _ hst htu => htu.trans hst) (fun _ _ => rfl)
      (fun _ _ _ => rfl) _ n waited s
  | send | sendCfgIn => simp only [runAction]; exact attempt_view State.controller _ s
  | resultOk => rfl

/-- A frame is a SerialWrite (R54, R73, R74). -/
theorem standsAt_tx_quiet {s : State} {a : Action} {bytes : List Byte} (h : a.standsAt s (.tx bytes) = true) :
    Quiet a := by
  cases a with
  | send => exact .send _
  | sendCfgIn => exact .sendCfgIn
  | _ => cases h

theorem perform_frame_controller (bytes : List Byte) (s : State) :
    (s.perform (.tx bytes)).controller = s.controller :=
  perform_view State.controller _ s fun _ ha => runAction_quiet_controller (standsAt_tx_quiet ha)

theorem runOp_waitReady_controller (s : State) :
    (runOp false (waitReadyLines ++ [.resultOk]) s).controller = s.controller :=
  runOp_view State.controller Quiet (fun _ => runAction_quiet_controller) (fun _ _ => rfl) (fun _ _ _ => rfl) false _
    (by simp [waitReadyLines, Quiet.poll, Quiet.resultOk]) s

/-- A code is a write of the lines (R72, R102). -/
theorem standsAt_lines_drives {s : State} {a : Action} {c : BitVec 2} (h : a.standsAt s (.lines c) = true) :
    a.drivesLines = true := by
  cases a with
  | writeBoth | writeA | writeB => rfl
  | _ => cases h

/-- MODE_STATE and the port. -/
def State.modeAndPort (s : State) : Mode × Bool × Option SerialCfg := (s.mode, s.serialOpen, s.serialCfg)

theorem runAction_drives_modeAndPort {a : Action} (h : a.drivesLines = true) (s : State) :
    (runAction a s).state.modeAndPort = s.modeAndPort := by
  cases a with
  | writeBoth | writeA | writeB => simp only [runAction]; exact attempt_view State.modeAndPort _ s
  | _ => cases h

theorem perform_code_modeAndPort (c : BitVec 2) (s : State) : (s.perform (.lines c)).modeAndPort = s.modeAndPort :=
  perform_view State.modeAndPort _ s fun _ ha => runAction_drives_modeAndPort (standsAt_lines_drives ha)

/-- A line of SET_MODE(m) leaves MODE_STATE or writes m (R101). -/
theorem runAction_setMode_mode {p : Params} {m : Mode} {a : Action} (ha : a ∈ setModeLines p m) (s : State) :
    (runAction a s).state.mode = s.mode ∨ (runAction a s).state.mode = m := by
  have hline := setModeLines_mem ha
  cases a with
  | writeBoth | writeA | writeB | openPort => simp only [runAction]; exact .inl (attempt_view State.mode _ s)
  | commitMode m' => simp at hline; exact .inr hline
  | poll n waited =>
    obtain ⟨⟨hmode, _⟩, _⟩ := controller_eq_iff.1 (runAction_quiet_controller (.poll n waited) s)
    exact .inl hmode
  | closePort =>
    simp only [runAction]
    split
    · exact .inl (attempt_view State.mode _ s)
    · exact .inl rfl
  | _ => simp at hline

theorem runOp_setMode_mode (m : Mode) (s : State) :
    (runOp false (setModeLines s.params m ++ [.resultOk]) s).mode = s.mode ∨
      (runOp false (setModeLines s.params m ++ [.resultOk]) s).mode = m :=
  runOp_rel (fun s t => t.mode = s.mode ∨ t.mode = m) (fun _ => .inl rfl)
    (fun _ _ _ hst htu => htu.elim (fun h => h ▸ hst) .inr) (· ∈ setModeLines s.params m ++ [.resultOk]) (fun _ => True)
    (fun _ _ _ _ _ _ => trivial)
    (fun _ ha s => (List.mem_append.1 ha).elim (runAction_setMode_mode · s) fun hok =>
      List.mem_singleton.1 hok ▸ .inl rfl)
    (fun _ _ => .inl rfl) (fun _ _ _ _ => .inl rfl) false _ (fun _ ha => ha) s

/-- Settles O28: all four kinds of instruction are plain; what the Mode Controller itself keeps depends on the kind. -/
theorem controllerFrame : Obligations.ControllerFrame := by
  unfold Obligations.ControllerFrame
  intro s t
  refine ⟨fun m h => ?setMode, fun h => ?waitReady, fun i hi h => ?code, fun c i hi h => ?frame⟩
  case setMode =>
    cases h
    obtain ⟨hoperands, hcfg, hver, hframeOut, herrInfo, hdir⟩ :=
      runOp_plain false (hostLines_setMode_plain s.params m) s
    exact ⟨hoperands, hcfg, hver, hframeOut, herrInfo, hdir, runOp_setMode_mode m s⟩
  case waitReady =>
    cases h
    obtain ⟨hoperands, hcfg, hver, hframeOut, herrInfo, hdir⟩ := runOp_plain false hostLines_waitReady_plain s
    exact ⟨hoperands, hcfg, hver, hframeOut, herrInfo, hdir, controller_eq_iff.1 (runOp_waitReady_controller s)⟩
  case code =>
    obtain ⟨code, hcode⟩ : ∃ code, exec i s = .next (s.perform (.lines code)) := by
      simp only [List.mem_cons, List.not_mem_nil, or_false] at hi
      obtain rfl | rfl | rfl | rfl := hi <;> exact ⟨_, rfl⟩
    cases hcode.symm.trans h
    obtain ⟨hoperands, hcfg, hver, hframeOut, herrInfo, hdir⟩ := perform_besidesController (.lines code) s
    have hkept := perform_code_modeAndPort code s
    simp only [State.modeAndPort, Prod.mk.injEq] at hkept
    exact ⟨hoperands, hcfg, hver, hframeOut, herrInfo, hdir, hkept⟩
  case frame =>
    obtain ⟨bytes, hbytes⟩ : ∃ bytes, exec i s = .next (s.perform (.tx bytes)) := by
      simp only [List.mem_cons, List.not_mem_nil, or_false] at hi
      obtain rfl | rfl | rfl | rfl | rfl := hi <;> exact ⟨_, rfl⟩
    cases hbytes.symm.trans h
    obtain ⟨hoperands, hcfg, hver, hframeOut, herrInfo, hdir⟩ := perform_besidesController (.tx bytes) s
    exact ⟨hoperands, hcfg, hver, hframeOut, herrInfo, hdir, controller_eq_iff.1 (perform_frame_controller bytes s)⟩

end Sys2Proof.Machine
end

section
/-! What the command sequences leave unchanged (O41): a read writes its output register and its cache together
(`runOp_readsTogether`), in the last line before RESULT (`runOp_lastLine`). -/

namespace Sys2Proof.Machine

open Sys2Proof

/-- FRAME_OUT, and the operand registers. -/
def State.operands (s : State) : State :=
  { s.hostSide with frameOut := s.frameOut, asked := s.asked }

theorem runAction_operands (a : Action) (s : State) : (runAction a s).state.operands = s.operands :=
  runAction_keeps a State.operands s

/-- No operation that is run as lines writes an operand register or FRAME_OUT. -/
theorem runOp_operands (wrap : Bool) (l : List Action) (s : State) :
    SameOperands s (runOp wrap l s) ∧ (runOp wrap l s).frameOut = s.frameOut := by
  have h : (runOp wrap l s).operands = s.operands :=
    runOp_view State.operands (fun _ => True) (fun a _ => runAction_operands a) (fun _ _ => rfl) (fun _ _ _ => rfl) wrap
      l (fun _ _ => trivial) s
  simp only [State.operands, State.hostSide, State.mk.injEq] at h
  tauto

/-! The reads. -/

/-- What a configuration read writes. -/
def State.cfgRead (s : State) : ConfigurationRegister × Option ConfigurationRegister := (s.cfgOut, s.cfgCache)

/-- What a version read writes. -/
def State.verRead (s : State) : VersionInfo × Option VersionInfo := (s.verOut, s.verCache)

theorem cfgRead_eq_iff {s t : State} : t.cfgRead = s.cfgRead ↔ SameCfg s t := Prod.mk_inj

theorem verRead_eq_iff {s t : State} : t.verRead = s.verRead ↔ SameVer s t := Prod.mk_inj

theorem runAction_cfgRead {a : Action} (h : a ≠ .acceptCfg) (s : State) : (runAction a s).state.cfgRead = s.cfgRead :=
  runAction_keeps a State.cfgRead s (ac := fun ha => absurd ha h)

theorem runAction_verRead {a : Action} (h : a ≠ .acceptVer) (s : State) : (runAction a s).state.verRead = s.verRead :=
  runAction_keeps a State.verRead s (av := fun ha => absurd ha h)

theorem runAction_gpioDir {a : Action} (h : NoDir a) (s : State) : (runAction a s).state.gpioDir = s.gpioDir := by
  obtain ⟨noBusy, noModeA, noModeB⟩ := h
  exact runAction_keeps a State.gpioDir s (fun ha => absurd ha noBusy) (fun ha => absurd ha noModeA)
    (fun ha => absurd ha noModeB)

theorem runOp_sameCfg {l : List Action} (h : ∀ a ∈ l, a ≠ .acceptCfg) (wrap : Bool) (s : State) :
    SameCfg s (runOp wrap l s) :=
  cfgRead_eq_iff.1 <| runOp_view State.cfgRead (· ≠ .acceptCfg) (fun _ => runAction_cfgRead) (fun _ _ => rfl)
    (fun _ _ _ => rfl) wrap l h s

theorem runOp_sameVer {l : List Action} (h : ∀ a ∈ l, a ≠ .acceptVer) (wrap : Bool) (s : State) :
    SameVer s (runOp wrap l s) :=
  verRead_eq_iff.1 <| runOp_view State.verRead (· ≠ .acceptVer) (fun _ => runAction_verRead) (fun _ _ => rfl)
    (fun _ _ _ => rfl) wrap l h s

theorem runOp_gpioDir {l : List Action} (h : ∀ a ∈ l, NoDir a) (wrap : Bool) (s : State) :
    (runOp wrap l s).gpioDir = s.gpioDir :=
  runOp_view State.gpioDir NoDir (fun _ => runAction_gpioDir) (fun _ _ => rfl) (fun _ _ _ => rfl) wrap l h s

/-- Each output register that a read writes changes only together with its cache, to the value that is cached. -/
def ReadsTogether (s t : State) : Prop :=
  (SameCfg s t ∨ t.cfgCache = some t.cfgOut) ∧ (SameVer s t ∨ t.verCache = some t.verOut)

theorem ReadsTogether.of_same {s t : State} (hcfg : t.cfgRead = s.cfgRead := by rfl)
    (hver : t.verRead = s.verRead := by rfl) : ReadsTogether s t :=
  ⟨.inl (cfgRead_eq_iff.1 hcfg), .inl (verRead_eq_iff.1 hver)⟩

theorem ReadsTogether.trans {s t u : State} (hst : ReadsTogether s t) (htu : ReadsTogether t u) :
    ReadsTogether s u := by
  obtain ⟨hcfg, hver⟩ := htu
  refine ⟨hcfg.elim (fun ⟨hout, hcache⟩ => ?_) .inr, hver.elim (fun ⟨hout, hcache⟩ => ?_) .inr⟩
  · rw [SameCfg, hout, hcache]; exact hst.left
  · rw [SameVer, hout, hcache]; exact hst.right

theorem runAction_readsTogether (a : Action) (s : State) : ReadsTogether s (runAction a s).state :=
  runAction_rel a ReadsTogether (fun _ => .of_same) (fun _ _ _ => .trans) (fun _ _ => .of_same) (fun _ _ _ => .of_same)
    (fun _ _ => .of_same) (fun _ _ => .of_same) (fun _ _ => .of_same) (fun _ _ => .of_same) (fun _ _ => .of_same)
    (fun _ _ => .of_same) (fun _ => .of_same) (fun _ => .of_same) (fun _ _ => .of_same) (fun _ => .of_same)
    (fun _ _ => .of_same) (fun _ => .of_same) (fun _ => .of_same) (fun _ _ _ _ _ => ⟨.inr rfl, .inl ⟨rfl, rfl⟩⟩)
    (fun _ _ _ => ⟨.inl ⟨rfl, rfl⟩, .inr rfl⟩) s

theorem runOp_readsTogether (wrap : Bool) (l : List Action) (s : State) : ReadsTogether s (runOp wrap l s) :=
  runOp_rel ReadsTogether (fun _ => .of_same) (fun _ _ _ => .trans) (fun _ => True) (fun _ => True)
    (fun _ _ _ _ _ _ => trivial) (fun a _ => runAction_readsTogether a) (fun _ _ => .of_same)
    (fun _ _ _ _ => .of_same) wrap l (fun _ _ => trivial) s

/-- Taking up a response ends well, or raises and changes nothing (R160). -/
theorem acceptCfg_done_or_raised (s : State) :
    (∃ x, runAction .acceptCfg s = .done x) ∨ ∃ e, runAction .acceptCfg s = .raised e s := by
  simp only [runAction, acceptHeldCfg, acceptCfgResponse]
  split
  · exact .inl ⟨_, rfl⟩
  · exact .inr ⟨_, rfl⟩
  · split
    · exact .inl ⟨_, rfl⟩
    · exact .inr ⟨_, rfl⟩

/-- Taking up a response ends well, or raises and changes nothing (R164). -/
theorem acceptVer_done_or_raised (s : State) :
    (∃ x, runAction .acceptVer s = .done x) ∨ ∃ e, runAction .acceptVer s = .raised e s := by
  simp only [runAction, acceptHeldVer, acceptVerResponse]
  split
  · exact .inl ⟨_, rfl⟩
  · exact .inr ⟨_, rfl⟩
  · split
    · exact .inl ⟨_, rfl⟩
    · exact .inr ⟨_, rfl⟩

/-- What only the last line before RESULT writes, an operation leaves unless it ends with OK. -/
theorem runOp_lastLine {α : Type} (v : State → α) {pre : List Action} {last : Action}
    (line : ∀ a ∈ pre, ∀ s, v (runAction a s).state = v s)
    (done_or_raised : ∀ s, (∃ x, runAction last s = .done x) ∨ ∃ e, runAction last s = .raised e s)
    (wrap : Bool) (s : State)
    (begins : ∀ s u, Begins s u → v u = v s := by rintro _ _ ⟨_, _, _, _, rfl⟩; rfl)
    (raise : ∀ s wrap e, v (s.raise wrap e) = v s := by exact fun _ _ _ => rfl) :
    v (runOp wrap (pre ++ [last, .resultOk]) s) = v s ∨
      ((runOp wrap (pre ++ [last, .resultOk]) s).IsIdle ∧
        (runOp wrap (pre ++ [last, .resultOk]) s).result = 0x00#8) := by
  have hpre : v (runSeq pre s.idle).state = v s :=
    (runSeq_view v line s.idle).trans (begins s _ ⟨_, _, _, _, rfl⟩)
  unfold runOp
  rw [conclude_view v _ _ begins raise, runSeq_append]
  cases hrun : runSeq pre s.idle with
  | awaits | raised => rw [hrun] at hpre; exact .inl hpre
  | done u =>
    rw [hrun] at hpre
    change v (runSeq [last, .resultOk] u).state = v s ∨ _
    obtain ⟨x, hx⟩ | ⟨e, he⟩ := done_or_raised u
    · rw [Run.andThen, runSeq_cons_done hx]
      exact .inr ⟨rfl, rfl⟩
    · rw [runSeq_cons_raised he]
      exact .inl hpre

/-- An operation that ends with `acceptCfg` keeps CFG_OUT and CFG_CACHE, or has ended with OK and cached what it put out
(R160, R170 (5)). -/
theorem runOp_cfgRead {pre : List Action} (hpre : ∀ a ∈ pre, a ≠ .acceptCfg) (wrap : Bool) (s t : State)
    (ht : runOp wrap (pre ++ [.acceptCfg, .resultOk]) s = t) :
    SameCfg s t ∨ (t.IsIdle ∧ t.result = 0x00#8 ∧ t.cfgCache = some t.cfgOut) := by
  subst ht
  have hended := runOp_lastLine State.cfgRead (fun a ha => runAction_cfgRead (hpre a ha)) acceptCfg_done_or_raised
    wrap s
  obtain ⟨htogether, _⟩ := runOp_readsTogether wrap (pre ++ [.acceptCfg, .resultOk]) s
  rw [cfgRead_eq_iff] at hended
  tauto

/-- The same of a version read (R164). -/
theorem runOp_verRead {pre : List Action} (hpre : ∀ a ∈ pre, a ≠ .acceptVer) (wrap : Bool) (s t : State)
    (ht : runOp wrap (pre ++ [.acceptVer, .resultOk]) s = t) :
    SameVer s t ∨ (t.IsIdle ∧ t.result = 0x00#8 ∧ t.verCache = some t.verOut) := by
  subst ht
  have hended := runOp_lastLine State.verRead (fun a ha => runAction_verRead (hpre a ha)) acceptVer_done_or_raised
    wrap s
  obtain ⟨_, htogether⟩ := runOp_readsTogether wrap (pre ++ [.acceptVer, .resultOk]) s
  rw [verRead_eq_iff] at hended
  tauto

theorem exec_readCfg (s : State) : exec .readCfg s =
    .next (runOp false (readStart s.params (wire3 Config.cmdReadParams) ++ [.acceptCfg, .resultOk]) s) := by
  simp [exec, execReadCfg, readCfgLines_eq]

theorem exec_readVer (s : State) : exec .readVer s =
    .next (runOp false (readStart s.params (wire3 Config.cmdReadVersion) ++ [.acceptVer, .resultOk]) s) := by
  simp [exec, execReadVer, readVerLines_eq]

theorem acceptCfg_end_noVer : ∀ a ∈ [Action.acceptCfg, .resultOk], a ≠ .acceptVer := by simp
theorem acceptVer_end_noCfg : ∀ a ∈ [Action.acceptVer, .resultOk], a ≠ .acceptCfg := by simp
theorem acceptCfg_end_noDir : ∀ a ∈ [Action.acceptCfg, .resultOk], NoDir a := by simp [NoDir]
theorem acceptVer_end_noDir : ∀ a ∈ [Action.acceptVer, .resultOk], NoDir a := by simp [NoDir]

/-! INITIALIZE. -/

/-- INITIALIZE before the response of its READ_CFG is taken up (R171). -/
def initStart (p : Params) : List Action :=
  [.setDirBusy, .setDirModeA, .setDirModeB] ++ setModeLines p .normal ++ readVerLines p ++
    readStart p (wire3 Config.cmdReadParams)

theorem exec_initBlock (s : State) : exec .initBlock s =
    .next (runOp true (initStart s.params ++ [.acceptCfg, .resultOk]) s) := by
  simp [exec, execInitBlock, initLines, initStart, readCfgLines_eq]

theorem initStart_noAcceptCfg (p : Params) : ∀ a ∈ initStart p, a ≠ .acceptCfg := by
  simp only [initStart, readVerLines_eq, List.forall_mem_append]
  have hread : ∀ command, ∀ a ∈ readStart p command, a ≠ .acceptCfg := fun command a ha =>
    (readStart_plain p command a ha).noCfg
  exact ⟨⟨⟨by simp, fun a ha => (setModeLines_plain p .normal a ha).noCfg⟩, hread _, by simp⟩, hread _⟩

/-- Each pin's direction is left or is set as INITIALIZE sets it (R27, R171). -/
def DirsLeftOrSet (s t : State) : Prop :=
  (t.gpioDir.busy = s.gpioDir.busy ∨ t.gpioDir.busy = .input) ∧
    (t.gpioDir.modeA = s.gpioDir.modeA ∨ t.gpioDir.modeA = .output) ∧
      (t.gpioDir.modeB = s.gpioDir.modeB ∨ t.gpioDir.modeB = .output)

theorem DirsLeftOrSet.of_same {s t : State} (h : t.gpioDir = s.gpioDir := by rfl) : DirsLeftOrSet s t := by
  simp [DirsLeftOrSet, h]

theorem DirsLeftOrSet.trans {s t u : State} (hst : DirsLeftOrSet s t) (htu : DirsLeftOrSet t u) :
    DirsLeftOrSet s u := by
  obtain ⟨hbusy, hmodeA, hmodeB⟩ := htu
  exact ⟨hbusy.elim (· ▸ hst.left) .inr, hmodeA.elim (· ▸ hst.right.left) .inr, hmodeB.elim (· ▸ hst.right.right) .inr⟩

theorem runAction_dirsLeftOrSet (a : Action) (s : State) : DirsLeftOrSet s (runAction a s).state :=
  runAction_rel a DirsLeftOrSet (fun _ => .of_same) (fun _ _ _ => .trans) (fun _ _ => .of_same) (fun _ _ _ => .of_same)
    (fun _ _ => .of_same) (fun _ _ => ⟨.inr rfl, .inl rfl, .inl rfl⟩) (fun _ _ => ⟨.inl rfl, .inr rfl, .inl rfl⟩)
    (fun _ _ => ⟨.inl rfl, .inl rfl, .inr rfl⟩) (fun _ _ => .of_same) (fun _ _ => .of_same) (fun _ => .of_same)
    (fun _ => .of_same) (fun _ _ => .of_same) (fun _ => .of_same) (fun _ _ => .of_same) (fun _ => .of_same)
    (fun _ => .of_same) (fun _ _ _ _ _ => .of_same) (fun _ _ _ => .of_same) s

theorem runOp_dirsLeftOrSet (wrap : Bool) (l : List Action) (s : State) : DirsLeftOrSet s (runOp wrap l s) :=
  runOp_rel DirsLeftOrSet (fun _ => .of_same) (fun _ _ _ => .trans) (fun _ => True) (fun _ => True)
    (fun _ _ _ _ _ _ => trivial) (fun a _ => runAction_dirsLeftOrSet a) (fun _ _ => .of_same)
    (fun _ _ _ _ => .of_same) wrap l (fun _ _ => trivial) s

/-- Settles O41: a plain sequence by `runOp_plain`; one that reads by `runOp_cfgRead` and `runOp_verRead`, and by what
each of its lines leaves alone. -/
theorem sequenceFrame : Obligations.SequenceFrame := by
  unfold Obligations.SequenceFrame
  intro s t
  refine ⟨fun h => ?readCfg, fun h => ?readVer, fun h => ?writeCfg, fun h => ?resetModule, fun h => ?initBlock⟩
  case readCfg =>
    cases (exec_readCfg s).symm.trans h
    have hstart := readStart_plain s.params (wire3 Config.cmdReadParams)
    have hver := List.forall_mem_append.2 ⟨fun a ha => (hstart a ha).noVer, acceptCfg_end_noVer⟩
    have hdir := List.forall_mem_append.2 ⟨fun a ha => (hstart a ha).noDir, acceptCfg_end_noDir⟩
    obtain ⟨hoperands, hframeOut⟩ := runOp_operands false _ s
    exact ⟨hoperands, runOp_sameVer hver false s, hframeOut, runOp_gpioDir hdir false s,
      runOp_cfgRead (fun a ha => (hstart a ha).noCfg) false s _ rfl⟩
  case readVer =>
    cases (exec_readVer s).symm.trans h
    have hstart := readStart_plain s.params (wire3 Config.cmdReadVersion)
    have hcfg := List.forall_mem_append.2 ⟨fun a ha => (hstart a ha).noCfg, acceptVer_end_noCfg⟩
    have hdir := List.forall_mem_append.2 ⟨fun a ha => (hstart a ha).noDir, acceptVer_end_noDir⟩
    obtain ⟨hoperands, hframeOut⟩ := runOp_operands false _ s
    exact ⟨hoperands, runOp_sameCfg hcfg false s, hframeOut, runOp_gpioDir hdir false s,
      runOp_verRead (fun a ha => (hstart a ha).noVer) false s _ rfl⟩
  case writeCfg => cases h; exact runOp_plain false (hostLines_writeCfg_plain s.params) s
  case resetModule => cases h; exact runOp_plain false (hostLines_resetModule_plain s.params) s
  case initBlock =>
    cases (exec_initBlock s).symm.trans h
    obtain ⟨hoperands, hframeOut⟩ := runOp_operands true _ s
    obtain ⟨_, hver⟩ := runOp_readsTogether true _ s
    exact ⟨hoperands, hframeOut, runOp_cfgRead (initStart_noAcceptCfg s.params) true s _ rfl, hver,
      runOp_dirsLeftOrSet true _ s⟩

end Sys2Proof.Machine
end

section
/-! Each cache is written only by its read (O50): a run of lines writes a cache only if the line that takes up its
response is among them (`Ran.writesCachesBy`). -/

namespace Sys2Proof.Machine

open Sys2Proof

/-! Which operations take up a response. -/

theorem hostLines_plain_or_read (p : Params) (i : Instr) :
    (∀ a ∈ hostLines p i, Plain a) ∨ i = .readCfg ∨ i = .readVer ∨ i = .initBlock := by
  cases i with
  | setMode m => exact .inl (hostLines_setMode_plain p m)
  | waitReady => exact .inl hostLines_waitReady_plain
  | writeCfg => exact .inl (hostLines_writeCfg_plain p)
  | resetModule => exact .inl (hostLines_resetModule_plain p)
  | readCfg | readVer | initBlock => simp
  | _ => exact .inl (by simp [hostLines])

theorem acceptCfg_mem_hostLines {p : Params} {i : Instr} (h : .acceptCfg ∈ hostLines p i) :
    i = .readCfg ∨ i = .initBlock := by
  obtain hplain | rfl | rfl | rfl := hostLines_plain_or_read p i
  · exact absurd rfl (hplain _ h).noCfg
  · exact .inl rfl
  · simp only [hostLines, readVerLines_eq, List.append_assoc, List.mem_append] at h
    obtain hstart | hend := h
    · exact absurd rfl (readStart_plain p _ _ hstart).noCfg
    · exact absurd rfl (acceptVer_end_noCfg _ (List.mem_append.2 hend))
  · exact .inr rfl

theorem acceptVer_mem_hostLines {p : Params} {i : Instr} (h : .acceptVer ∈ hostLines p i) :
    i = .readVer ∨ i = .initBlock := by
  obtain hplain | rfl | rfl | rfl := hostLines_plain_or_read p i
  · exact absurd rfl (hplain _ h).noVer
  · simp only [hostLines, readCfgLines_eq, List.append_assoc, List.mem_append] at h
    obtain hstart | hend := h
    · exact absurd rfl (readStart_plain p _ _ hstart).noVer
    · exact absurd rfl (acceptCfg_end_noVer _ (List.mem_append.2 hend))
  · exact .inl rfl
  · exact .inr rfl

/-- Only a command is a host operation (R70 to R76). -/
theorem hostLines_of_not_cmd {w : FetchWord} {i : Instr} (p : Params) (hd : decode w = .ok i) (hw : ∀ c, w ≠ .cmd c) :
    hostLines p i = [] := by
  cases w with
  | cmd c => exact absurd rfl (hw c)
  | lines c =>
    cases hd
    unfold decodeLines
    split <;> rfl
  | tx bytes =>
    change decodeTx bytes = _ at hd
    unfold decodeTx at hd
    split at hd
    · split_ifs at hd <;> cases hd <;> rfl
    · dsimp only at hd
      split_ifs at hd <;> cases hd <;> rfl
    · cases hd
  | rx f =>
    change decodeRx f = _ at hd
    unfold decodeRx at hd
    split_ifs at hd <;> cases hd <;> rfl

theorem response_of_encode_rx {i : Instr} {f : Frame6} (h : encode i = .rx f) :
    ∃ c v, i ∈ [Instr.wireParamsResponsePersist c, .wireParamsResponseVolatile c, .wireVersionResponse v] := by
  cases i with
  | wireParamsResponsePersist c | wireParamsResponseVolatile c => exact ⟨c, default, by simp⟩
  | wireVersionResponse v => exact ⟨default, v, by simp⟩
  | _ => cases h

/-! An instruction and a step. -/

/-- From s to t a cache is changed only by the line of `l` that takes up its response. -/
structure WritesCachesBy (l : List Action) (s t : State) : Prop where
  cfg : t.cfgCache ≠ s.cfgCache → .acceptCfg ∈ l
  ver : t.verCache ≠ s.verCache → .acceptVer ∈ l

theorem WritesCachesBy.of_same {l : List Action} {s t : State} (hcfg : t.cfgCache = s.cfgCache := by rfl)
    (hver : t.verCache = s.verCache := by rfl) : WritesCachesBy l s t :=
  ⟨(absurd hcfg ·), (absurd hver ·)⟩

theorem WritesCachesBy.of_plain {l : List Action} {s t : State} (h : WritesCachesBy l s t) (hl : ∀ a ∈ l, Plain a) :
    WritesCachesBy [] s t :=
  ⟨fun hne => absurd rfl (hl _ (h.cfg hne)).noCfg, fun hne => absurd rfl (hl _ (h.ver hne)).noVer⟩

/-- A run writes a cache only if it has the line that takes up its response. -/
theorem Ran.writesCachesBy {l : List Action} {s t : State} (h : Ran l s t) : WritesCachesBy l s t where
  cfg hne := by
    by_contra hmem
    have hsame := h.view State.cfgRead fun a ha => runAction_cfgRead fun heq => hmem (heq ▸ ha)
    exact hne (cfgRead_eq_iff.1 hsame).right
  ver hne := by
    by_contra hmem
    have hsame := h.view State.verRead fun a ha => runAction_verRead fun heq => hmem (heq ▸ ha)
    exact hne (verRead_eq_iff.1 hsame).right

/-- An instruction writes a cache only by its own lines as a host operation, or by those behind a SerialRead as a
response. -/
theorem exec_caches {i : Instr} {s t : State} (h : exec i s = .next t) : ∃ l, WritesCachesBy l s t ∧
    (l = [] ∨ l = hostLines s.params i ∨ (∃ f, encode i = .rx f) ∧ s.seq.todo = .receive :: l) := by
  cases exec_effect h with
  | operation ran => exact ⟨_, ran.writesCachesBy, .inr (.inl rfl)⟩
  | coded h => obtain ⟨_, _, _, rfl⟩ | ⟨_, rfl⟩ := h <;> exact ⟨[], .of_same, .inl rfl⟩
  | response f rx todo reads ran => exact ⟨todo, ran.writesCachesBy, .inr (.inr ⟨⟨f, rx⟩, reads⟩)⟩
  | putOut w l stands ran =>
    exact ⟨[], ran.writesCachesBy.of_plain fun a ha => standsAt_plain (stands a ha), .inl rfl⟩
  | nothing same => exact ⟨[], by rw [same]; exact .of_same, .inl rfl⟩

/-- The host's next move is the command word of an instruction, and no operation is in progress. -/
def RunsCommand (s : State) (i : Instr) : Prop :=
  s.seq.todo = [] ∧ ∃ c rest, s.inputs = .issue (.cmd c) :: rest ∧ decode (.cmd c) = .ok i

theorem RunsCommand.of_acceptCfg {s : State} {i : Instr} {p : Params} (h : RunsCommand s i)
    (hmem : .acceptCfg ∈ hostLines p i) : RunsCommand s .readCfg ∨ RunsCommand s .initBlock := by
  obtain rfl | rfl := acceptCfg_mem_hostLines hmem
  exacts [.inl h, .inr h]

theorem RunsCommand.of_acceptVer {s : State} {i : Instr} {p : Params} (h : RunsCommand s i)
    (hmem : .acceptVer ∈ hostLines p i) : RunsCommand s .readVer ∨ RunsCommand s .initBlock := by
  obtain rfl | rfl := acceptVer_mem_hostLines hmem
  exacts [.inl h, .inr h]

/-- Taking a word up leaves the caches and the operation in progress; a command is taken up with none in progress. -/
theorem fetch_word_caches {s u : State} {w : FetchWord} (h : s.fetch = .word w u) :
    u.cfgCache = s.cfgCache ∧ u.verCache = s.verCache ∧ u.seq = s.seq ∧
      ((∀ c, w ≠ .cmd c) ∨ ∀ i, decode w = .ok i → RunsCommand s i) := by
  obtain ⟨rest, hinputs, ⟨hidle, ⟨c, rfl, rfl⟩ | ⟨hw, rfl⟩⟩ | ⟨_, _, _, _, hw, rfl⟩⟩ := fetch_word_cases h
  · exact ⟨rfl, rfl, rfl, .inr fun i hd => ⟨hidle, c, rest, hinputs, hd⟩⟩
  · exact ⟨rfl, rfl, rfl, .inl hw⟩
  · exact ⟨rfl, rfl, rfl, .inl hw⟩

/-- A step writes a cache only by lines of the operation in progress, or by those of the command that it takes up. -/
theorem step_caches {s t : State} (h : step s = .next t) : ∃ l, WritesCachesBy l s t ∧
    (l ⊆ s.seq.todo ∨ ∃ i p, RunsCommand s i ∧ l = hostLines p i) := by
  obtain rfl | rfl | hload | ⟨w, u, hword, hdone⟩ := step_cases h
  · exact ⟨_, (Ran.resume s).writesCachesBy, .inl (List.Subset.refl _)⟩
  · exact ⟨[], .of_same, .inl (List.nil_subset _)⟩
  · obtain ⟨_, _, _, _, rfl⟩ | ⟨_, _, _, _, rfl⟩ := fetch_loaded_cases hload <;>
      exact ⟨[], .of_same, .inl (List.nil_subset _)⟩
  · obtain ⟨hcfg, hver, hseq, hcommand⟩ := fetch_word_caches hword
    have taken : ∀ {l}, WritesCachesBy l u t → WritesCachesBy l s t := fun h => ⟨hcfg ▸ h.cfg, hver ▸ h.ver⟩
    have reads : ∀ {l}, u.seq.todo = .receive :: l → l ⊆ s.seq.todo := fun hl => by simp [← hseq, hl]
    obtain ⟨i, hd, hexec⟩ | ⟨c, _, rfl⟩ | ⟨f, _, rfl⟩ := hdone
    · obtain ⟨l, hl, rfl | rfl | ⟨_, htodo⟩⟩ := exec_caches hexec
      · exact ⟨[], taken hl, .inl (List.nil_subset _)⟩
      · refine ⟨_, taken hl, hcommand.elim (fun hw => .inl ?_) fun hruns => .inr ⟨i, _, hruns i hd, rfl⟩⟩
        simp [hostLines_of_not_cmd u.params hd hw]
      · exact ⟨l, taken hl, .inl (reads htodo)⟩
    · exact ⟨[], .of_same hcfg hver, .inl (List.nil_subset _)⟩
    · obtain ⟨todo, htodo, ran⟩ | hsame := deliver_cases u f
      · exact ⟨todo, taken ran.writesCachesBy, .inl (reads htodo)⟩
      · exact ⟨[], by rw [hsame]; exact .of_same hcfg hver, .inl (List.nil_subset _)⟩

/-- A cache that holds a value holds one still. -/
def HoldsCaches (s t : State) : Prop :=
  (s.cfgCache ≠ none → t.cfgCache ≠ none) ∧ (s.verCache ≠ none → t.verCache ≠ none)

theorem HoldsCaches.of_same {s t : State} (hcfg : t.cfgCache = s.cfgCache := by rfl)
    (hver : t.verCache = s.verCache := by rfl) : HoldsCaches s t :=
  ⟨(hcfg ▸ ·), (hver ▸ ·)⟩

theorem HoldsCaches.trans {s t u : State} (hst : HoldsCaches s t) (htu : HoldsCaches t u) : HoldsCaches s u :=
  ⟨htu.left ∘ hst.left, htu.right ∘ hst.right⟩

theorem runAction_holdsCaches (a : Action) (s : State) : HoldsCaches s (runAction a s).state :=
  runAction_rel a HoldsCaches (fun _ => .of_same) (fun _ _ _ => .trans) (fun _ _ => .of_same) (fun _ _ _ => .of_same)
    (fun _ _ => .of_same) (fun _ _ => .of_same) (fun _ _ => .of_same) (fun _ _ => .of_same) (fun _ _ => .of_same)
    (fun _ _ => .of_same) (fun _ => .of_same) (fun _ => .of_same) (fun _ _ => .of_same) (fun _ => .of_same)
    (fun _ _ => .of_same) (fun _ => .of_same) (fun _ => .of_same) (fun _ _ _ _ _ => ⟨fun _ => nofun, id⟩)
    (fun _ _ _ => ⟨id, fun _ => nofun⟩) s

theorem step_holdsCaches {s t : State} (h : step s = .next t) : HoldsCaches s t :=
  step_rel HoldsCaches (fun _ => .of_same) (fun _ _ _ => .trans) runAction_holdsCaches (fun _ _ => .of_same)
    (fun _ _ _ => .of_same) (fun _ => .of_same) (fun _ _ => .of_same) (fun _ _ => .of_same) (fun _ _ => .of_same)
    (fun _ _ => .of_same) (supply_rel HoldsCaches (fun _ => .of_same) fun _ _ _ => .of_same) (fun _ _ _ => .of_same)
    (fun _ _ => .of_same) (fun _ _ => .of_same) (fun _ _ => .of_same) s t h

/-- Settles O50: `exec_caches` and `step_caches` name the lines that can have written a cache, and only the reads take up
a response. -/
theorem cachesAreWrittenOnlyByReads : Obligations.CachesAreWrittenOnlyByReads := by
  unfold Obligations.CachesAreWrittenOnlyByReads
  refine ⟨fun i s t h => ?_, fun s t h => ?_⟩
  · obtain ⟨l, writes, rfl | rfl | ⟨⟨f, rx⟩, reads⟩⟩ := exec_caches h
    · exact ⟨fun hne => absurd (writes.cfg hne) List.not_mem_nil, fun hne => absurd (writes.ver hne) List.not_mem_nil⟩
    · exact ⟨fun hne => (acceptCfg_mem_hostLines (writes.cfg hne)).imp_right .inl,
        fun hne => (acceptVer_mem_hostLines (writes.ver hne)).imp_right .inl⟩
    · exact ⟨fun hne => .inr (.inr ⟨l, reads, writes.cfg hne, response_of_encode_rx rx⟩),
        fun hne => .inr (.inr ⟨l, reads, writes.ver hne, response_of_encode_rx rx⟩)⟩
  · obtain ⟨l, writes, hsub | ⟨i, p, runs, rfl⟩⟩ := step_caches h
    · exact ⟨fun hne => .inl (hsub (writes.cfg hne)), fun hne => .inl (hsub (writes.ver hne)), step_holdsCaches h⟩
    · exact ⟨fun hne => .inr (runs.of_acceptCfg (writes.cfg hne)),
        fun hne => .inr (runs.of_acceptVer (writes.ver hne)), step_holdsCaches h⟩

end Sys2Proof.Machine
end

section
/-! Nothing reads the caches or GPIO_DIR (O49): a line, an operation or an instruction that begins with those three
forgotten comes to the same but for them. -/

namespace Sys2Proof.Machine

open Sys2Proof

/-- The state with the caches and GPIO_DIR forgotten (R27, R29). -/
def State.forget (s : State) : State :=
  { s with cfgCache := none, verCache := none, gpioDir := ⟨.unconfigured, .unconfigured, .unconfigured⟩ }

@[simp] theorem State.forget_params (s : State) : s.forget.params = s.params := rfl
@[simp] theorem State.forget_frameIn (s : State) : s.forget.frameIn = s.frameIn := rfl
@[simp] theorem State.forget_seq (s : State) : s.forget.seq = s.seq := rfl

/-- States that agree but for the three differ in the three alone. -/
theorem eq_of_forget_eq {t u : State} (h : u.forget = t.forget) :
    u = { t with cfgCache := u.cfgCache, verCache := u.verCache, gpioDir := u.gpioDir } := by
  cases t; cases u
  simp_all [State.forget]

/-- A run in whose state the three are forgotten. -/
def Run.forget (r : Run) : Run := r.map State.forget

theorem Run.forget_map (r : Run) : Run.forget (r.map State.forget) = r.forget := by cases r <;> rfl

/-! Lines. -/

/-- An attempt reads none of the three if its two updates read none. -/
theorem attempt_forget (a : Action) {p : Prim} {f g : State → State} (s : State)
    (hf : ∀ t, (f t.forget).forget = (f t).forget := by exact fun _ => rfl)
    (hg : ∀ t, (g t.forget).forget = (g t).forget := by exact fun _ => rfl) :
    (attempt a p f g s.forget).forget = (attempt a p f g s).forget := by
  obtain ⟨hnone, hs⟩ | ⟨ans, rest, hans, ⟨hbad, hs⟩ | ⟨hok, hs⟩⟩ := attempt_cases a p f g s
  · rw [hs, attempt_awaits a p f g (s := s.forget) hnone]; rfl
  · rw [hs, attempt_fails a p f g (s := s.forget) hans hbad]
    exact congrArg (Run.raised .io) (hg ((s.withAnswers rest).record p .ioError))
  · rw [hs, attempt_ok a p f g (s := s.forget) hans hok]
    exact congrArg Run.done (hf ((s.withAnswers rest).record p .ok))

/-- No line reads the caches or a direction. -/
theorem runAction_forget (a : Action) (s : State) : (runAction a s.forget).forget = (runAction a s).forget := by
  cases a with
  | setDirBusy | setDirModeA | setDirModeB | writeBoth | writeA | writeB | openPort | send | sendCfgIn =>
    simp only [runAction, sendBytes]
    exact attempt_forget _ s
  | commitMode | resultOk => rfl
  | poll n waited =>
    have h := pollFrom_map State.forget (fun _ => rfl) (fun _ _ => rfl) (fun _ _ _ => rfl) s.answers n waited s
    exact (congrArg Run.forget h).trans (Run.forget_map _)
  | receive =>
    have h := readResponse_map State.forget (fun _ => rfl) (fun _ => rfl) (fun _ _ => rfl) (fun _ _ _ => rfl)
      (fun _ _ => rfl) s
    exact (congrArg Run.forget h).trans (Run.forget_map _)
  | closePort =>
    by_cases hopen : s.serialOpen = true
    · simp only [runAction, if_pos hopen, if_pos (show s.forget.serialOpen = true from hopen)]
      exact attempt_forget _ s
    · simp only [runAction, if_neg hopen, if_neg (show ¬s.forget.serialOpen = true from hopen)]
      rfl
  | giveUpEarly =>
    by_cases h : s.seq.held = .timeout ∧ s.params.restoreOnReadTimeout = false
    · have h' : s.forget.seq.held = .timeout ∧ s.forget.params.restoreOnReadTimeout = false := h
      simp only [runAction, if_pos h, if_pos h']
      rfl
    · have h' : ¬(s.forget.seq.held = .timeout ∧ s.forget.params.restoreOnReadTimeout = false) := h
      simp only [runAction, if_neg h, if_neg h']
      rfl
  | acceptCfg =>
    simp only [runAction, acceptHeldCfg, acceptCfgResponse, State.forget_seq, State.forget_params]
    split
    · rfl
    · rfl
    · split <;> rfl
  | acceptVer =>
    simp only [runAction, acceptHeldVer, acceptVerResponse, State.forget_seq]
    split
    · rfl
    · rfl
    · split <;> rfl

theorem andThen_forget {rest : List Action} (h : ∀ t, (runSeq rest t.forget).forget = (runSeq rest t).forget)
    (r : Run) : (r.forget.andThen rest).forget = (r.andThen rest).forget := by
  cases r with
  | done t => exact h t
  | awaits | raised => rfl

theorem runSeq_forget (l : List Action) (s : State) : (runSeq l s.forget).forget = (runSeq l s).forget := by
  induction l generalizing s with
  | nil => rfl
  | cons a rest ih =>
    rw [runSeq_cons, runSeq_cons, ← andThen_forget ih, runAction_forget, andThen_forget ih]

/-! Operations. -/

theorem conclude_forget (wrap : Bool) (r : Run) : (conclude wrap r).forget = conclude wrap r.forget := by
  cases r <;> rfl

theorem runOp_forget (wrap : Bool) (l : List Action) (s : State) :
    (runOp wrap l s.forget).forget = (runOp wrap l s).forget := by
  simp only [runOp, conclude_forget]
  exact congrArg (conclude wrap) (runSeq_forget l s.idle)

theorem deliver_forget (f : Frame6) (s : State) : (s.forget.deliver f).forget = (s.deliver f).forget := by
  by_cases h : ∃ todo, s.seq.todo = .receive :: todo
  · obtain ⟨todo, htodo⟩ := h
    rw [deliver_reading htodo, deliver_reading (s := s.forget) htodo, conclude_forget, conclude_forget]
    exact congrArg (conclude s.seq.wrap) (runSeq_forget todo
      ((s.record (.serialRead s.params.port 6 Config.readTimeoutMs) (.bytes f)).hold (.bytes f)))
  · rw [deliver_not_reading (not_exists.1 h), deliver_not_reading (s := s.forget) (not_exists.1 h)]
    rfl

theorem supply_forget (s : State) : s.forget.supply = s.supply.forget := by
  by_cases h : s.answers = []
  · rw [supply_drawn h, supply_drawn (s := s.forget) h]; rfl
  · rw [supply_listed h, supply_listed (s := s.forget) h]

theorem standsBefore_forget (rest : List Action) (r : Run) :
    (r.standsBefore rest).forget = r.forget.standsBefore rest := by cases r <;> rfl

theorem linesOf_forget (s : State) (w : FetchWord) : s.forget.linesOf w = s.linesOf w := rfl

theorem perform_forget (w : FetchWord) (s : State) : (s.forget.perform w).forget = (s.perform w).forget := by
  by_cases h : s.linesOf w = 0
  · simp only [State.perform, linesOf_forget, h, if_pos]; rfl
  · rw [perform_part h, perform_part (s := s.forget) h, conclude_forget, conclude_forget, standsBefore_forget,
      standsBefore_forget, supply_forget, runSeq_forget]
    rfl

/-- No instruction reads the caches or a direction. -/
theorem exec_forget (i : Instr) (s : State) :
    ∃ t u, exec i s = .next t ∧ exec i s.forget = .next u ∧ u.forget = t.forget := by
  obtain ⟨wrap, l, h⟩ | ⟨f, h⟩ | ⟨w, h⟩ | rfl | rfl | rfl := exec_cases i s.params
  · exact ⟨_, _, h s rfl, h s.forget rfl, runOp_forget wrap l s⟩
  · exact ⟨_, _, h s, h s.forget, deliver_forget f s⟩
  · exact ⟨_, _, h s, h s.forget, perform_forget w s⟩
  · simp only [exec, execDecodeCfg, State.forget_params, State.forget_frameIn]
    split <;> exact ⟨_, _, rfl, rfl, rfl⟩
  · exact ⟨_, _, rfl, rfl, rfl⟩
  · simp only [exec, execDecodeVer, State.forget_frameIn]
    split <;> exact ⟨_, _, rfl, rfl, rfl⟩

/-- Settles O49: the two states are one once the three are forgotten, so by `exec_forget` they come to states that are
one too. -/
theorem cachesAndDirectionsAreReadByNothing : Obligations.CachesAndDirectionsAreReadByNothing := by
  unfold Obligations.CachesAndDirectionsAreReadByNothing
  intro i s t c v d h
  obtain ⟨t₁, u₁, hs, hforgotten, hsame₁⟩ := exec_forget i s
  obtain ⟨t₂, u₂, hother, hforgotten₂, hsame₂⟩ := exec_forget i { s with cfgCache := c, verCache := v, gpioDir := d }
  cases hs.symm.trans h
  cases hforgotten.symm.trans hforgotten₂
  exact ⟨_, _, _, hother.trans (congrArg _ (eq_of_forget_eq (hsame₂.symm.trans hsame₁)))⟩

end Sys2Proof.Machine
end

section
/-! The decoder and the encoder are inverse to each other (O1, O2), and what follows for the mode codes (O5) and for
sample words (O4). -/

namespace Sys2Proof.Machine

open Sys2Proof

/-! The fields of a command word, and its decoding by them (R70, R71). -/

/-- A command word is its reserved bits, its mode field and its opcode (R71). -/
theorem eq_append_of_fields (w : Word) :
    (w.extractLsb' 10 6 ++ w.extractLsb' 8 2 ++ w.extractLsb' 0 8 : BitVec 16) = w := by
  rw [BitVec.extractLsb'_append_extractLsb'_eq_extractLsb' (by rfl),
    BitVec.extractLsb'_append_extractLsb'_eq_extractLsb' (by rfl)]
  simp

/-- A word with reserved bits 0 is the command word of its mode field and its opcode (R71). -/
theorem hostCmd_of_fields {w : Word} (h : w.extractLsb' 10 6 = 0#6) :
    hostCmd (w.extractLsb' 8 2) (w.extractLsb' 0 8) = w := by
  rw [hostCmd, ← h]
  exact eq_append_of_fields w

/-- SET_MODE's word decodes to SET_MODE of the mode its field codes (R70 to R72). -/
theorem decode_setMode (m : Mode) : decode (.cmd (hostCmd m.code 0x01#8)) = .ok (.setMode m) := by
  cases m <;> rfl

/-- An opcode that takes no mode is the opcode of what it decodes to (R70). -/
theorem encode_of_decodeOp {op : Byte} {i : Instr} (h : decodeOp op = .ok i) : encode i = .cmd (hostCmd 0#2 op) := by
  unfold decodeOp at h
  split_ifs at h
  all_goals cases h; subst ‹op = _›; rfl

/-! The frames (R73 to R76). -/

/-- Six bytes to be sent are a write frame by their header (R74). -/
theorem decode_tx_frame (f : Frame6) : decode (.tx f.bytes) =
    if f.b0 = Config.hdrPersist then .ok (.wireWritePersist (CfgFields.ofFrame f))
    else if f.b0 = Config.hdrVolatile then .ok (.wireWriteVolatile (CfgFields.ofFrame f))
    else .error .notAFrame := rfl

@[simp] theorem toFrame_b0 (h : Byte) (c : CfgFields) : (c.toFrame h).b0 = h := rfl

/-- A version response is the one its header and its fields build (R76). -/
theorem verToFrame_ofFrame {f : Frame6} (h : f.b0 = Config.hdrVersion) : (VerFields.ofFrame f).toFrame = f := by
  rw [VerFields.toFrame, ← h]
  rfl

theorem hdrVolatile_ne_hdrPersist : Config.hdrVolatile ≠ Config.hdrPersist := by decide

/-- Settles O1: a command word and a mode code are computed; a frame's header is the one its decoder tests for, and its
raw fields come back by `ofFrame_toFrame`. -/
theorem decodeOfEncodeGivesInstructionBack : Obligations.DecodeOfEncodeGivesInstructionBack := by
  unfold Obligations.DecodeOfEncodeGivesInstructionBack
  intro i
  cases i with
  | setMode m => exact decode_setMode m
  | waitReady | decodeCfg | encodeCfg | decodeVer | readCfg | writeCfg | readVer | resetModule | initBlock => rfl
  | modeNormal | modeWakeup | modePowerSaving | modeProgram => rfl
  | wireReadParams | wireReadVersion | wireReset => rfl
  | wireWritePersist c =>
    rw [encode, decode_tx_frame, toFrame_b0, if_pos rfl, ofFrame_toFrame]
  | wireWriteVolatile c =>
    rw [encode, decode_tx_frame, toFrame_b0, if_neg hdrVolatile_ne_hdrPersist, if_pos rfl, ofFrame_toFrame]
  | wireParamsResponsePersist c =>
    rw [encode, decode, decodeRx, toFrame_b0, if_pos rfl, ofFrame_toFrame]
  | wireParamsResponseVolatile c =>
    rw [encode, decode, decodeRx, toFrame_b0, if_neg hdrVolatile_ne_hdrPersist, if_pos rfl, ofFrame_toFrame]
  | wireVersionResponse v => rfl

/-! A word that decodes, place by place. -/

theorem encode_of_decodeCmd {w : Word} {i : Instr} (h : decodeCmd w = .ok i) : encode i = .cmd w := by
  simp only [decodeCmd] at h
  split_ifs at h with hreserved hop hmode
  · cases h
    rw [encode, code_ofCode, ← hop, hostCmd_of_fields hreserved]
  · rw [encode_of_decodeOp h, ← hmode, hostCmd_of_fields hreserved]

/-- The mode codes decode to the instruction that drives them (R72). -/
theorem encode_decodeLines (c : BitVec 2) : encode (decodeLines c) = .lines c := by
  rw [← code_ofCode c]
  cases Mode.ofCode c <;> rfl

theorem encode_of_decodeTx {bytes : List Byte} {i : Instr} (h : decodeTx bytes = .ok i) : encode i = .tx bytes := by
  unfold decodeTx at h
  split at h
  case h_1 x y z =>
    split_ifs at h with hequal hparams hversion hreset
    all_goals
      obtain ⟨rfl, rfl⟩ := hequal
      cases h
      subst x
      rfl
  case h_2 =>
    dsimp only at h
    split_ifs at h
    all_goals
      cases h
      rw [encode, toFrame_ofFrame_of_header ‹_›]
      rfl
  case h_3 => cases h

theorem encode_of_decodeRx {f : Frame6} {i : Instr} (h : decodeRx f = .ok i) : encode i = .rx f := by
  unfold decodeRx at h
  split_ifs at h with hpersist hvolatile hversion <;> cases h
  · rw [encode, toFrame_ofFrame_of_header hpersist]
  · rw [encode, toFrame_ofFrame_of_header hvolatile]
  · rw [encode, verToFrame_ofFrame hversion]

/-- Settles O2, place by place. -/
theorem encodeOfDecodeGivesWordBack : Obligations.EncodeOfDecodeGivesWordBack := by
  unfold Obligations.EncodeOfDecodeGivesWordBack
  intro w i h
  cases w with
  | cmd c => exact encode_of_decodeCmd h
  | lines c => cases h; exact encode_decodeLines c
  | tx bytes => exact encode_of_decodeTx h
  | rx f => exact encode_of_decodeRx h

/-- Settles O4: the nine words are decoded by computation. -/
theorem sampleWordsDecode : Obligations.SampleWordsDecode := by
  unfold Obligations.SampleWordsDecode
  decide

/-- Settles O5: the codes and levels are the spec's table; that every code is legal is `code_ofCode` and
`encode_decodeLines`. -/
theorem modeCodesAndLevels : Obligations.ModeCodesAndLevels := by
  unfold Obligations.ModeCodesAndLevels
  refine ⟨decode_setMode, ?normal, ?wakeup, ?powerSaving, ?program, fun c => ⟨code_ofCode c, ?legal⟩, fun _ _ => rfl⟩
  case legal => exact ⟨decodeLines c, rfl, encode_decodeLines c⟩
  all_goals decide

end Sys2Proof.Machine
end

section
/-! Words that are no instruction (O3, O58): which command words are illegal and what a step does with one, and the one
way in which a step stops. -/

namespace Sys2Proof.Machine

open Sys2Proof

/-! Which command words are illegal (R89). -/

/-- Bits 7:0, 9:8 and 15:10 of a command word as numbers (R71). -/
theorem cmdFields_toNat (w : Word) :
    (w.extractLsb' 0 8).toNat = w.toNat % 256 ∧ (w.extractLsb' 8 2).toNat = w.toNat / 256 % 4 ∧
      (w.extractLsb' 10 6).toNat = w.toNat / 1024 := by
  have := w.isLt
  simp only [BitVec.extractLsb'_toNat, Nat.shiftRight_eq_div_pow]
  exact ⟨by norm_num, by norm_num, Nat.mod_eq_of_lt (by omega)⟩

/-- The opcodes that take no mode are 0x02 to 0x0A (R70). -/
theorem decodeOp_ok_iff (op : Byte) : (∃ i, decodeOp op = .ok i) ↔ 2 ≤ op.toNat ∧ op.toNat ≤ 10 := by
  have hOk : (decodeOp op).isOk = decide (2 ≤ op.toNat ∧ op.toNat ≤ 10) := by revert op; decide
  rw [← decide_eq_true_iff (p := 2 ≤ op.toNat ∧ op.toNat ≤ 10), ← hOk]
  cases decodeOp op <;> simp [Except.isOk, Except.toBool]

/-- A command word decodes if its reserved bits are 0 and it is SET_MODE, or another opcode of R70 with mode field 0. -/
theorem decodeCmd_ok_iff (w : Word) : (∃ i, decodeCmd w = .ok i) ↔ w.extractLsb' 10 6 = 0#6 ∧
    (w.extractLsb' 0 8 = 0x01#8 ∨ w.extractLsb' 8 2 = 0#2 ∧ ∃ i, decodeOp (w.extractLsb' 0 8) = .ok i) := by
  simp only [decodeCmd]
  split_ifs <;> simp_all

/-- The same with the fields as numbers. -/
theorem decodeCmd_ok_iff_toNat (w : Word) : (∃ i, decodeCmd w = .ok i) ↔ w.toNat / 1024 = 0 ∧
    (w.toNat % 256 = 1 ∨ w.toNat / 256 % 4 = 0 ∧ 2 ≤ w.toNat % 256 ∧ w.toNat % 256 ≤ 10) := by
  obtain ⟨hop, hmode, hreserved⟩ := cmdFields_toNat w
  rw [decodeCmd_ok_iff, decodeOp_ok_iff, ← hop, ← hmode, ← hreserved, BitVec.toNat_eq, BitVec.toNat_eq, BitVec.toNat_eq]
  rfl

/-! What a step does with a word that is no instruction. -/

theorem step_of_fetch_rejected {s u : State} {w : FetchWord} {r : Reject} (hf : s.fetch = .word w u)
    (hd : decode w = .error r) : step s = u.rejected w r := by
  simp only [step, hf, hd]

/-- An illegal command is refused (R89, R207). -/
theorem rejected_cmd {c : Word} {r : Reject} (hd : decode (.cmd c) = .error r) (s : State) :
    s.rejected (.cmd c) r = .next s.illegalOp := by
  obtain ⟨o, rfl⟩ | rfl | rfl := decodeCmd_error c r hd <;> rfl

/-- Six bytes with another header arrive like any others (log entry 18). -/
theorem rejected_rx {f : Frame6} {r : Reject} (hd : decode (.rx f) = .error r) (s : State) :
    s.rejected (.rx f) r = .next (s.deliver f) := by
  rw [decode_rx_error hd]
  rfl

/-- Bytes to be sent that are no frame stop the machine (log entry 18). -/
theorem rejected_tx {bytes : List Byte} {r : Reject} (hd : decode (.tx bytes) = .error r) (s : State) :
    s.rejected (.tx bytes) r = .fault .notAFrame := by
  rw [decode_tx_error hd]
  rfl

/-- What does not decode is rejected with a reason. -/
theorem decode_error_of_not_ok {w : FetchWord} (h : ∀ i, decode w ≠ .ok i) : ∃ r, decode w = .error r := by
  cases hd : decode w with
  | ok i => exact absurd hd (h i)
  | error r => exact ⟨r, rfl⟩

/-- Settles O3: the four ways to be illegal are the complement of `decodeCmd_ok_iff_toNat`, and a rejected command is
refused with ILLEGAL_OP. -/
theorem illegalCommandIsRefused : Obligations.IllegalCommandIsRefused := by
  unfold Obligations.IllegalCommandIsRefused
  intro w illegal
  have hillegal : illegal ↔ ∀ i, decode (.cmd w) ≠ .ok i := by
    have hdecodes := decodeCmd_ok_iff_toNat w
    rw [← not_exists, show (∃ i, decode (.cmd w) = .ok i) ↔ _ from hdecodes]
    omega
  refine ⟨hillegal, fun hw s rest hidle hinputs => ?_⟩
  obtain ⟨r, hr⟩ := decode_error_of_not_ok (hillegal.1 hw)
  rw [step_of_fetch_rejected (fetch_idle_cmd (congrArg Sequencer.todo hidle) hinputs) hr, rejected_cmd hr]
  rfl

/-! Where the machine stops. -/

/-- Every instruction goes on in every state. -/
theorem exec_next (i : Instr) (s : State) : ∃ t, exec i s = .next t := by
  obtain ⟨wrap, l, h⟩ | ⟨f, h⟩ | ⟨w, h⟩ | rfl | rfl | rfl := exec_cases i s.params
  · exact ⟨_, h s rfl⟩
  · exact ⟨_, h s⟩
  · exact ⟨_, h s⟩
  all_goals exact ⟨_, rfl⟩

/-- Of the words that are no instruction only bytes to be sent stop the machine. -/
theorem rejected_next {w : FetchWord} {r : Reject} (hd : decode w = .error r) (hw : ∀ bytes, w ≠ .tx bytes)
    (s : State) : ∃ t, s.rejected w r = .next t := by
  cases w with
  | cmd c => exact ⟨_, rejected_cmd hd s⟩
  | lines c => cases hd
  | tx bytes => exact absurd rfl (hw bytes)
  | rx f => exact ⟨_, rejected_rx hd s⟩

/-- A step stops exactly where it takes up bytes to be sent that are no frame. -/
theorem step_stops_iff (s : State) : (¬ ∃ t, step s = .next t) ↔
    ∃ bytes u, s.fetch = .word (.tx bytes) u ∧ ∀ i, decode (.tx bytes) ≠ .ok i := by
  constructor
  · intro hstops
    cases hf : s.fetch with
    | running | waiting | loaded t => exact absurd ⟨_, by rw [step, hf]⟩ hstops
    | word w u =>
      cases hd : decode w with
      | ok i => exact absurd (step_of_fetch_word hf hd ▸ exec_next i u) hstops
      | error r =>
        have hrejected : ¬ ∃ t, u.rejected w r = .next t := step_of_fetch_rejected hf hd ▸ hstops
        obtain ⟨bytes, rfl⟩ : ∃ bytes, w = .tx bytes := by
          by_contra hw
          exact hrejected (rejected_next hd (not_exists.1 hw) u)
        exact ⟨bytes, u, rfl, fun i hi => by rw [hd] at hi; cases hi⟩
  · rintro ⟨bytes, u, hf, hbad⟩ ⟨t, hstep⟩
    obtain ⟨r, hr⟩ := decode_error_of_not_ok hbad
    rw [step_of_fetch_rejected hf hr, rejected_tx hr] at hstep
    cases hstep

/-- A SerialWrite is that of its bytes, or of the frame that CFG_IN encodes to (R54, R163). -/
theorem standsAt_tx_iff {s : State} {a : Action} {bytes : List Byte} : a.standsAt s (.tx bytes) = true ↔
    a = .send bytes ∨ (a = .sendCfgIn ∧ (encodeCfgFrame s.params.powerTable s.cfgIn).bytes = bytes) := by
  cases a <;> simp [Action.standsAt]

/-- What WRITE_CFG sends is a write frame (R74, R130). -/
theorem decode_encodeCfgFrame (pt : PowerTable) (c : ConfigurationRegister) :
    ∃ i, decode (.tx (encodeCfgFrame pt c).bytes) = .ok i := by
  have hdecodes := decodeOfEncodeGivesInstructionBack
  unfold encodeCfgFrame
  split
  · exact ⟨_, hdecodes (.wireWritePersist _)⟩
  · exact ⟨_, hdecodes (.wireWriteVolatile _)⟩

/-- Settles O58: a step that stops has taken up bytes that are no frame (`step_stops_iff`), with no operation in
progress or with one at sending them, which is not that of WRITE_CFG (`decode_encodeCfgFrame`). -/
theorem onlyBadFramesStopTheMachine : Obligations.OnlyBadFramesStopTheMachine := by
  unfold Obligations.OnlyBadFramesStopTheMachine
  refine ⟨exec_next, fun s => (step_stops_iff s).trans ⟨?_, ?_⟩⟩
  · rintro ⟨bytes, u, hf, hbad⟩
    obtain ⟨rest, hinputs, ⟨hidle, _⟩ | ⟨a, todo, htodo, hstands, _, _⟩⟩ := fetch_word_cases hf
    · exact ⟨bytes, rest, .inl hidle, hinputs, hbad⟩
    · obtain rfl | ⟨rfl, rfl⟩ := standsAt_tx_iff.1 hstands
      · exact ⟨bytes, rest, .inr ⟨todo, htodo⟩, hinputs, hbad⟩
      · obtain ⟨i, hi⟩ := decode_encodeCfgFrame s.params.powerTable s.cfgIn
        exact absurd hi (hbad i)
  · rintro ⟨bytes, rest, hidle | ⟨todo, htodo⟩, hinputs, hbad⟩
    · exact ⟨bytes, _, fetch_idle_word hidle hinputs nofun, hbad⟩
    · exact ⟨bytes, _, fetch_stands htodo hinputs (standsAt_tx_iff.2 (.inl rfl)), hbad⟩

end Sys2Proof.Machine
end

section
/-! The codes and the frames that an operation puts out (O19, O43): the word is put out by the lines that make it up,
with the next answer or one of the oracle; a line that fails ends the operation. -/

namespace Sys2Proof.Machine

open Sys2Proof

/-! Putting a word out. -/

/-- An operation that stands before a word puts out at least one line. -/
theorem linesOf_ne_zero {s : State} {w : FetchWord} {a : Action} {todo : List Action} (h : s.seq.todo = a :: todo)
    (ha : a.standsAt s w = true) : s.linesOf w ≠ 0 := by
  unfold State.linesOf
  cases w <;> simp [h, ha]

/-- Where no answer is listed, a word is put out as with the one drawn of the oracle listed (log entry 6). -/
theorem perform_drawn {s : State} {w : FetchWord} {a : Action} {todo : List Action} (h : s.seq.todo = a :: todo)
    (ha : a.standsAt s w = true) (hnone : s.answers = []) :
    s.perform w = State.perform w { s with answers := [Config.oracle s.asked], asked := s.asked + 1 } := by
  have hlines := linesOf_ne_zero h ha
  rw [perform_part hlines, supply_drawn hnone]
  exact (perform_part (s := { s with answers := [Config.oracle s.asked], asked := s.asked + 1 }) hlines).symm

/-- A word whose first line raises an error ends the operation (R202). -/
theorem perform_raises {s t : State} {w : FetchWord} {a : Action} {todo : List Action} {e : Err}
    (h : s.seq.todo = a :: todo) (ha : a.standsAt s w = true) (hlisted : s.answers ≠ [])
    (hraised : runAction a s = .raised e t) : s.perform w = t.raise s.seq.wrap e := by
  have hlines := linesOf_ne_zero h ha
  obtain ⟨n, hn⟩ := Nat.exists_eq_succ_of_ne_zero hlines
  rw [perform_part hlines, supply_listed hlisted, hn, h, List.take_succ_cons, runSeq_cons_raised hraised]
  rfl

/-! The mode codes. -/

theorem modeCode_inj {m m' : Mode} : m'.code = m.code ↔ m' = m := by
  cases m <;> cases m' <;> decide

/-- The line writes of a code are those of its mode (R72, R102). -/
theorem standsAt_code_iff {s : State} {a : Action} {m : Mode} : a.standsAt s (.lines m.code) = true ↔
    a ∈ [.writeBoth m, .writeA m, .writeB m] := by
  cases a <;> simp [Action.standsAt, modeCode_inj]

theorem writeModeLines_ne_nil (p : Params) (m : Mode) : writeModeLines p m ≠ [] := by
  unfold writeModeLines
  split <;> simp

/-! What a write of the lines leaves, when it succeeds and when it fails (R102). -/

theorem runAction_writeA_ok {s : State} {y : Answer} {rest : List Answer} (m : Mode) (hy : s.answers = y :: rest)
    (hok : y.fails = false) : runAction (.writeA m) s = .done { s with
      lineA := m.levelA, answers := rest, trace := s.trace ++ [⟨.gpioWrite s.params.pinModeA m.levelA, .ok⟩] } := by
  rw [runAction, attempt_ok _ _ _ _ hy hok]; rfl

theorem runAction_writeB_ok {s : State} {y : Answer} {rest : List Answer} (m : Mode) (hy : s.answers = y :: rest)
    (hok : y.fails = false) : runAction (.writeB m) s = .done { s with
      lineB := m.levelB, answers := rest, trace := s.trace ++ [⟨.gpioWrite s.params.pinModeB m.levelB, .ok⟩] } := by
  rw [runAction, attempt_ok _ _ _ _ hy hok]; rfl

theorem runAction_writeA_fails {s : State} {y : Answer} {rest : List Answer} (m : Mode) (hy : s.answers = y :: rest)
    (hbad : y.fails = true) : runAction (.writeA m) s = .raised .io { s with
      lineA := Config.freeLevel s.draws, draws := s.draws + 1, answers := rest
      trace := s.trace ++ [⟨.gpioWrite s.params.pinModeA m.levelA, .ioError⟩] } := by
  rw [runAction, attempt_fails _ _ _ _ hy hbad]; rfl

theorem runAction_writeB_fails {s : State} {y : Answer} {rest : List Answer} (m : Mode) (hy : s.answers = y :: rest)
    (hbad : y.fails = true) : runAction (.writeB m) s = .raised .io { s with
      lineB := Config.freeLevel s.draws, draws := s.draws + 1, answers := rest
      trace := s.trace ++ [⟨.gpioWrite s.params.pinModeB m.levelB, .ioError⟩] } := by
  rw [runAction, attempt_fails _ _ _ _ hy hbad]; rfl

theorem runAction_writeBoth_fails {s : State} {y : Answer} {rest : List Answer} (m : Mode)
    (hy : s.answers = y :: rest) (hbad : y.fails = true) : runAction (.writeBoth m) s = .raised .io { s with
      lineA := Config.freeLevel s.draws, lineB := Config.freeLevel (s.draws + 1), draws := s.draws + 2, answers := rest
      trace := s.trace ++ [⟨.gpioWriteBoth s.params.pinModeA m.levelA s.params.pinModeB m.levelB, .ioError⟩] } := by
  rw [runAction, attempt_fails _ _ _ _ hy hbad]; rfl

/-- The row of O19's table for each code: the code is put out, with the levels of its mode (R72). -/
theorem exec_code {i : Instr} {m : Mode} {a b : Level}
    (hx : (i, m, a, b) ∈ [(Instr.modeNormal, Mode.normal, Level.low, Level.low), (.modeWakeup, .wakeup, .low, .high),
      (.modePowerSaving, .powerSaving, .high, .low), (.modeProgram, .program, .high, .high)]) :
    (∀ s, exec i s = .next (s.perform (.lines m.code))) ∧ a = m.levelA ∧ b = m.levelB := by
  simp only [List.mem_cons, Prod.mk.injEq, List.not_mem_nil, or_false] at hx
  obtain hrow | hrow | hrow | hrow := hx
  all_goals
    obtain ⟨rfl, rfl, rfl, rfl⟩ := hrow
    exact ⟨fun _ => rfl, rfl, rfl⟩

/-- The line writes of a mode, with answers that succeed, leave both lines at its levels, and the operation before
MODE_STATE <- m (R101, R102). -/
theorem perform_code_writes {s : State} {pre rest : List Answer} {m : Mode} {todo : List Action}
    (htodo : s.seq.todo = writeModeLines s.params m ++ .commitMode m :: todo) (hanswers : s.answers = pre ++ rest)
    (hlen : pre.length = lineCost s.params) (hok : ∀ y ∈ pre, y.fails = false) :
    s.perform (.lines m.code) = { s with
      lineA := m.levelA, lineB := m.levelB, answers := rest, trace := s.trace ++ lineEvents s.params m,
      seq := ⟨.commitMode m :: todo, s.seq.wrap, s.seq.held⟩ } := by
  have hlisted : s.answers ≠ [] := by
    intro hnone
    have hpre : pre = [] := (List.append_eq_nil_iff.1 (hanswers.symm.trans hnone)).1
    rw [hpre, lineCost] at hlen
    split at hlen <;> cases hlen
  rw [perform_code htodo (fun _ => standsAt_writeModeLines) (writeModeLines_ne_nil _ m), supply_listed hlisted,
    runSeq_writeModeLines m rfl hanswers hlen hok, levelA_eq, levelB_eq]
  rfl

/-- The one line write that is left of a code, with an answer that succeeds (R102). -/
theorem perform_code_write {s t : State} {a : Action} {m : Mode} {todo : List Action}
    (htodo : s.seq.todo = a :: .commitMode m :: todo) (ha : a ∈ [.writeBoth m, .writeA m, .writeB m])
    (hlisted : s.answers ≠ []) (hdone : runAction a s = .done t) :
    s.perform (.lines m.code) = { t with seq := ⟨.commitMode m :: todo, s.seq.wrap, t.seq.held⟩ } := by
  rw [perform_code (writes := [a]) htodo (by simpa using standsAt_code_iff.2 ha) (by simp), supply_listed hlisted,
    runSeq_cons_done hdone]
  rfl

/-- Settles O19: the code of a mode is put out by the line writes of that mode (`standsAt_code_iff`). -/
theorem modeCodesDriveTheLines : Obligations.ModeCodesDriveTheLines := by
  unfold Obligations.ModeCodesDriveTheLines
  rintro ⟨i, m, a, b⟩ hx
  obtain ⟨hexec, rfl, rfl⟩ := exec_code hx
  simp only [hexec, Host.Outcome.next.injEq]
  refine ⟨fun s pre rest todo htodo hanswers hlen hok => perform_code_writes htodo hanswers hlen hok,
    fun s y rest todo hy hok => ⟨fun htodo => ?_, fun htodo => ?_⟩,
    fun s y rest todo hy hbad => ⟨fun htodo => ?_, fun htodo => ?_, fun htodo => ?_⟩,
    fun s c todo htodo hc hnone => perform_drawn htodo (standsAt_code_iff.2 hc) hnone,
    fun s houtside => perform_outside fun c todo htodo => ?_⟩
  · exact perform_code_write htodo (by simp) (by simp [hy]) (runAction_writeA_ok m hy hok)
  · exact perform_code_write htodo (by simp) (by simp [hy]) (runAction_writeB_ok m hy hok)
  · exact perform_raises htodo (standsAt_code_iff.2 (by simp)) (by simp [hy]) (runAction_writeBoth_fails m hy hbad)
  · exact perform_raises htodo (standsAt_code_iff.2 (by simp)) (by simp [hy]) (runAction_writeA_fails m hy hbad)
  · exact perform_raises htodo (standsAt_code_iff.2 (by simp)) (by simp [hy]) (runAction_writeB_fails m hy hbad)
  · exact Bool.eq_false_iff.2 (mt standsAt_code_iff.1 (houtside c todo htodo))

/-! The frames. -/

/-- The row of O43's table for each frame: its bytes are put out (R73, R74). -/
theorem exec_frame {c : CfgFields} {x : Instr × List Byte}
    (hx : x ∈ [(Instr.wireReadParams, [0xC1#8, 0xC1#8, 0xC1#8]), (Instr.wireReadVersion, [0xC3#8, 0xC3#8, 0xC3#8]),
      (Instr.wireReset, [0xC4#8, 0xC4#8, 0xC4#8]), (Instr.wireWritePersist c, (c.toFrame 0xC0#8).bytes),
      (Instr.wireWriteVolatile c, (c.toFrame 0xC2#8).bytes)]) (s : State) :
    exec x.1 s = .next (s.perform (.tx x.2)) := by
  simp only [List.mem_cons, List.not_mem_nil, or_false] at hx
  obtain rfl | rfl | rfl | rfl | rfl := hx <;> rfl

/-- The SerialWrite of a frame is one of its bytes, whether the line holds them or CFG_IN encodes to them (R54,
R163). -/
theorem runAction_of_standsAt_tx {s : State} {a : Action} {bytes : List Byte}
    (h : a.standsAt s (.tx bytes) = true) : runAction a s = sendBytes a bytes s := by
  obtain rfl | ⟨rfl, rfl⟩ := standsAt_tx_iff.1 h <;> rfl

/-- Settles O43: a frame is put out by the SerialWrite of its bytes (`standsAt_tx_iff`). -/
theorem framesAreSent : Obligations.FramesAreSent := by
  unfold Obligations.FramesAreSent
  intro s c x hx sends
  have hstands : ∀ a, a.standsAt s (.tx x.2) = true ↔ sends a := fun a => standsAt_tx_iff
  simp only [exec_frame hx, Host.Outcome.next.injEq]
  refine ⟨fun a todo y rest htodo hsends hy => ?_, fun a todo htodo hsends hnone => ?_, fun houtside => ?_⟩
  · have ha := (hstands a).2 hsends
    have hlisted : s.answers ≠ [] := by simp [hy]
    refine ⟨fun hok => ?_, fun hbad => ?_⟩
    · rw [perform_frame htodo ha, supply_listed hlisted, runAction_of_standsAt_tx ha, sendBytes,
        attempt_ok _ _ _ _ hy hok]
      rfl
    · exact perform_raises htodo ha hlisted ((runAction_of_standsAt_tx ha).trans (attempt_fails _ _ _ _ hy hbad))
  · exact perform_drawn htodo ((hstands a).2 hsends) hnone
  · exact perform_outside fun a todo htodo => Bool.eq_false_iff.2 (mt (hstands a).1 (houtside a todo htodo))

end Sys2Proof.Machine
end

section
/-! The SerialRead of READ_CFG and READ_VER (O44, O59): the operation that stands there takes the six bytes that arrive,
returns to Normal and then takes them up; with no SerialRead under way they change nothing of the block. -/

namespace Sys2Proof.Machine

open Sys2Proof

/-! What a read makes of six bytes, by their header. -/

theorem hdrVersion_ne_hdrPersist : Config.hdrVersion ≠ Config.hdrPersist := by decide

theorem hdrVersion_ne_hdrVolatile : Config.hdrVersion ≠ Config.hdrVolatile := by decide

theorem decodeCfgFrame_persist (pt : PowerTable) (c : CfgFields) :
    decodeCfgFrame pt (c.toFrame Config.hdrPersist) = .ok (decodeFields pt true c) := by
  rw [decodeCfgFrame, toFrame_b0, if_pos rfl, ofFrame_toFrame]

theorem decodeCfgFrame_volatile (pt : PowerTable) (c : CfgFields) :
    decodeCfgFrame pt (c.toFrame Config.hdrVolatile) = .ok (decodeFields pt false c) := by
  rw [decodeCfgFrame, toFrame_b0, if_neg hdrVolatile_ne_hdrPersist, if_pos rfl, ofFrame_toFrame]

theorem decodeCfgFrame_other (pt : PowerTable) {f : Frame6} (hpersist : f.b0 ≠ Config.hdrPersist)
    (hvolatile : f.b0 ≠ Config.hdrVolatile) : decodeCfgFrame pt f = .error f.b0 := by
  rw [decodeCfgFrame, if_neg hpersist, if_neg hvolatile]

theorem decodeVerFrame_version (v : VerFields) : decodeVerFrame v.toFrame = .ok ⟨v.model, v.version, v.features⟩ := rfl

theorem decodeVerFrame_other {f : Frame6} (hversion : f.b0 ≠ Config.hdrVersion) : decodeVerFrame f = .error f.b0 := by
  rw [decodeVerFrame, if_neg hversion]

theorem runAction_acceptCfg_ok {s : State} {f : Frame6} {r : ConfigurationRegister} (hheld : s.seq.held = .bytes f)
    (hdecode : decodeCfgFrame s.params.powerTable f = .ok r) :
    runAction .acceptCfg s = .done { s with cfgOut := r, cfgCache := some r } := by
  simp only [runAction, acceptHeldCfg, hheld, acceptCfgResponse, hdecode]

theorem runAction_acceptCfg_error {s : State} {f : Frame6} {h : Byte} (hheld : s.seq.held = .bytes f)
    (hdecode : decodeCfgFrame s.params.powerTable f = .error h) :
    runAction .acceptCfg s = .raised (.protocol h) s := by
  simp only [runAction, acceptHeldCfg, hheld, acceptCfgResponse, hdecode]

theorem runAction_acceptVer_ok {s : State} {f : Frame6} {r : VersionInfo} (hheld : s.seq.held = .bytes f)
    (hdecode : decodeVerFrame f = .ok r) :
    runAction .acceptVer s = .done { s with verOut := r, verCache := some r } := by
  simp only [runAction, acceptHeldVer, hheld, acceptVerResponse, hdecode]

theorem runAction_acceptVer_error {s : State} {f : Frame6} {h : Byte} (hheld : s.seq.held = .bytes f)
    (hdecode : decodeVerFrame f = .error h) : runAction .acceptVer s = .raised (.protocol h) s := by
  simp only [runAction, acceptHeldVer, hheld, acceptVerResponse, hdecode]

/-! Up to the SerialRead. -/

/-- READ_CFG or READ_VER, with good answers for SET_MODE(Program) and one for its SerialWrite, stands at its SerialRead
(R160, R164). -/
theorem runOp_read_stands {s : State} {pre : List Answer} {w : Answer} (command : List Byte) (accept : Action)
    (fit : waitFits s.params s.params.readySamples = true) (hanswers : s.answers = pre ++ [w])
    (hlen : pre.length = setModeCost s.params s.serialOpen) (hgood : ∀ a ∈ pre, a.Good) (hw : w.fails = false) :
    runOp false (readStart s.params command ++ [accept, .resultOk]) s = { s.inMode .program with
      answers := []
      trace := s.trace ++ setModeEvents s.params s.serialOpen .program ++ [sent s.params command]
      seq := ⟨restOfRead s.params accept, false, .nothing⟩ } := by
  have hlines : readStart s.params command ++ [accept, .resultOk] =
      setModeLines s.params .program ++ .send command :: restOfRead s.params accept := by
    simp [readStart, restOfRead]
  have hprogram := runSeq_setModeLines (p := s.params) (s := s.idle) .program rfl hanswers hlen hgood fit
  rw [runOp, hlines, runSeq_append_done hprogram,
    runSeq_cons_done (by rw [runAction, sendBytes, attempt_ok _ _ _ _ rfl hw])]
  rfl

/-! From the SerialRead on. -/

/-- The block stands at the SerialRead of the read that ends with `accept`, with good answers for the return to Normal
and `rest` after them. -/
structure AtRead (s : State) (accept : Action) (rest : List Answer) : Prop where
  seq : ∃ h, s.seq = ⟨restOfRead s.params accept, false, h⟩
  fit : waitFits s.params s.params.readySamples = true
  answers : ∃ post, s.answers = post ++ rest ∧ post.length = setModeCost s.params s.serialOpen ∧ ∀ a ∈ post, a.Good

/-- The block has read f, returned to Normal and ended with a result code. -/
def State.backFromRead (s : State) (f : Frame6) (rest : List Answer) (code : Byte) : State :=
  (s.inMode .normal).ended ([received s.params f] ++ setModeEvents s.params s.serialOpen .normal) rest code

/-- The block has read f and returned to Normal, and takes the response up next. -/
def State.holding (s : State) (f : Frame6) (rest : List Answer) : State :=
  { s.inMode .normal with
    answers := rest
    trace := s.trace ++ ([received s.params f] ++ setModeEvents s.params s.serialOpen .normal)
    seq := { s.seq with held := .bytes f } }

theorem AtRead.deliver {s : State} {accept : Action} {rest : List Answer} (h : AtRead s accept rest) (f : Frame6) :
    s.deliver f = conclude false (runSeq [accept, .resultOk] (s.holding f rest)) := by
  obtain ⟨⟨_, hseq⟩, fit, post, hanswers, hlen, hgood⟩ := h
  exact deliver_restOfRead f hseq fit hanswers hlen hgood

/-- A response that is taken up completes the read. -/
theorem AtRead.deliver_done {s t : State} {accept : Action} {rest : List Answer} (h : AtRead s accept rest)
    {f : Frame6} (hdone : runAction accept (s.holding f rest) = .done t) :
    s.deliver f = State.idle (t.withResult codeOk) := by
  rw [h.deliver, runSeq_cons_done hdone]
  rfl

/-- A response that the read does not decode ends it with ProtocolError (R204). -/
theorem AtRead.deliver_raised {s : State} {accept : Action} {rest : List Answer} (h : AtRead s accept rest)
    {f : Frame6} {header : Byte}
    (hraised : runAction accept (s.holding f rest) = .raised (.protocol header) (s.holding f rest)) :
    s.deliver f = { s.backFromRead f rest 0x04#8 with errInfo := header } := by
  rw [h.deliver, runSeq_cons_raised hraised]
  rfl

/-- READ_CFG keeps the register that its response decodes to (R160). -/
theorem AtRead.deliver_cfg {s : State} {rest : List Answer} (h : AtRead s .acceptCfg rest) {f : Frame6}
    {r : ConfigurationRegister} (hdecode : decodeCfgFrame s.params.powerTable f = .ok r) :
    s.deliver f = { s.backFromRead f rest 0x00#8 with cfgOut := r, cfgCache := some r } :=
  h.deliver_done (runAction_acceptCfg_ok rfl hdecode)

/-- READ_CFG takes no header but C0 and C2 (R122, R160). -/
theorem AtRead.deliver_not_cfg {s : State} {rest : List Answer} (h : AtRead s .acceptCfg rest) {f : Frame6}
    (hpersist : f.b0 ≠ Config.hdrPersist) (hvolatile : f.b0 ≠ Config.hdrVolatile) :
    s.deliver f = { s.backFromRead f rest 0x04#8 with errInfo := f.b0 } :=
  h.deliver_raised (runAction_acceptCfg_error rfl (decodeCfgFrame_other _ hpersist hvolatile))

/-- READ_VER keeps the record that its response decodes to (R164). -/
theorem AtRead.deliver_ver {s : State} {rest : List Answer} (h : AtRead s .acceptVer rest) {f : Frame6}
    {r : VersionInfo} (hdecode : decodeVerFrame f = .ok r) :
    s.deliver f = { s.backFromRead f rest 0x00#8 with verOut := r, verCache := some r } :=
  h.deliver_done (runAction_acceptVer_ok rfl hdecode)

/-- READ_VER takes no header but C3 (R140, R164). -/
theorem AtRead.deliver_not_ver {s : State} {rest : List Answer} (h : AtRead s .acceptVer rest) {f : Frame6}
    (hversion : f.b0 ≠ Config.hdrVersion) : s.deliver f = { s.backFromRead f rest 0x04#8 with errInfo := f.b0 } :=
  h.deliver_raised (runAction_acceptVer_error rfl (decodeVerFrame_other hversion))

/-- Settles O44: `runOp_read_stands` up to the SerialRead, the rules of `AtRead` from there, and `deliver_not_reading`
elsewhere. -/
theorem responsesAreAccepted : Obligations.ResponsesAreAccepted := by
  unfold Obligations.ResponsesAreAccepted
  refine ⟨?stands, ?atRead, ?outside⟩
  case stands =>
    intro s pre w fit hanswers hlen hgood hw x hx
    simp only [List.mem_cons, List.not_mem_nil, or_false] at hx
    obtain rfl | rfl := hx
    · rw [exec_readCfg]
      exact congrArg _ (runOp_read_stands _ _ fit hanswers hlen hgood hw)
    · rw [exec_readVer]
      exact congrArg _ (runOp_read_stands _ _ fit hanswers hlen hgood hw)
  case atRead =>
    intro s c v post rest fit hanswers hlen hgood version back
    refine ⟨fun h hseq => ?_, fun h hseq => ?_⟩
    · have hread : AtRead s .acceptCfg rest := ⟨⟨h, hseq⟩, fit, post, hanswers, hlen, hgood⟩
      exact ⟨congrArg _ (hread.deliver_cfg (decodeCfgFrame_persist _ c)),
        congrArg _ (hread.deliver_cfg (decodeCfgFrame_volatile _ c)),
        congrArg _ (hread.deliver_not_cfg hdrVersion_ne_hdrPersist hdrVersion_ne_hdrVolatile)⟩
    · have hread : AtRead s .acceptVer rest := ⟨⟨h, hseq⟩, fit, post, hanswers, hlen, hgood⟩
      exact ⟨congrArg _ (hread.deliver_ver (decodeVerFrame_version v)),
        congrArg _ (hread.deliver_not_ver hdrVersion_ne_hdrPersist.symm),
        congrArg _ (hread.deliver_not_ver hdrVersion_ne_hdrVolatile.symm)⟩
  case outside =>
    intro s c v hnot i hi
    simp only [List.mem_cons, List.not_mem_nil, or_false] at hi
    obtain rfl | rfl | rfl := hi <;> exact congrArg _ (deliver_not_reading hnot _)

/-- Six bytes that arrive with no operation in progress change nothing of the block (R30). -/
theorem step_idle_rx {s : State} {f : Frame6} {moves : List HostMove} (hidle : s.seq.todo = [])
    (hinputs : s.inputs = .issue (.rx f) :: moves) : step s = .next { s with inputs := moves } := by
  have hfetch := fetch_idle_word hidle hinputs nofun
  have hsame := deliver_not_reading (s := { s with inputs := moves }) (fun todo h => by simp [hidle] at h) f
  cases hd : decode (.rx f) with
  | ok i => rw [step_of_fetch_word hfetch hd, exec_response hd, hsame]
  | error r => rw [step_of_fetch_rejected hfetch hd, rejected_rx hd, hsame]

/-- Settles O59: idle by `step_idle_rx`; neither read knows the header. -/
theorem unknownResponseHeader : Obligations.UnknownResponseHeader := by
  unfold Obligations.UnknownResponseHeader
  intro s f moves hinputs hpersist hvolatile hversion
  refine ⟨fun hidle => step_idle_rx hidle hinputs, fun accept h post rest haccept hseq fit hanswers hlen hgood => ?_⟩
  have htodo : s.seq.todo = .receive :: (restOfRead s.params accept).tail := by rw [hseq]; rfl
  have hread : AtRead { s with inputs := moves } accept rest := ⟨⟨h, hseq⟩, fit, post, hanswers, hlen, hgood⟩
  rw [step_reading htodo hinputs]
  obtain rfl | rfl := haccept
  · exact congrArg _ (hread.deliver_not_cfg hpersist hvolatile)
  · exact congrArg _ (hread.deliver_not_ver hversion)

end Sys2Proof.Machine
end

section
/-! The wait, one sample at a time (O24): what a sample does (`pollFrom_cons`), and what follows for WAIT_READY as a
whole: when it completes (O23), when it expires (O25), and that it returns OK only after READY_SAMPLES HIGH samples
(O27). -/

namespace Sys2Proof.Machine

open Sys2Proof

/-! The end of an operation. -/

theorem runOp_completes {s t : State} {l : List Action} (h : runSeq l s.idle = .done t) (wrap : Bool) :
    runOp wrap (l ++ [.resultOk]) s = { t with result := 0x00#8, seq := Sequencer.idle } := by
  rw [runOp, runSeq_append_done h]; rfl

theorem runOp_raises {s t : State} {l : List Action} {e : Err} (h : runSeq l s.idle = .raised e t) (wrap : Bool)
    (todo : List Action) : runOp wrap (l ++ todo) s = t.raise wrap e := by
  rw [runOp, runSeq_append_raised h]; rfl

/-! A sample. -/

/-- R104's count n after one more sample. -/
def countAfter (n : Nat) (a : Answer) : Nat := if a.level = .high then n + 1 else 0

theorem countAfter_high {a : Answer} (h : a.level = .high) (n : Nat) : countAfter n a = n + 1 := if_pos h

theorem countAfter_low {a : Answer} (h : a.level = .low) (n : Nat) : countAfter n a = 0 := by simp [countAfter, h]

theorem sampled_high {a : Answer} (h : a.level = .high) (p : Params) : sampled p a = busyHigh p := by
  rw [sampled, h]; rfl

theorem readyExpired_iff {p : Params} {waited : Nat} :
    readyExpired p waited = true ↔ ∃ t, p.readyTimeoutMs = some t ∧ t ≤ waited := by
  unfold readyExpired
  cases p.readyTimeoutMs <;> simp

/-- All that one sample of the wait does (R104, R106). -/
theorem pollFrom_cons (a : Answer) (rest : List Answer) (n waited : Nat) (s : State) :
    pollFrom (a :: rest) n waited s =
      if a.fails then
        .raised .io { s with answers := rest, trace := s.trace ++ [⟨.gpioRead s.params.pinBusy, .ioError⟩] }
      else if s.params.readySamples ≤ countAfter n a then
        .done { s with answers := rest, trace := s.trace ++ [sampled s.params a, delayed 20] }
      else if readyExpired s.params waited then
        .raised .timeoutReady { s with answers := rest, trace := s.trace ++ [sampled s.params a] }
      else pollFrom rest (countAfter n a) (waited + 10)
        { s with answers := rest, trace := s.trace ++ [sampled s.params a, delayed 10] } := by
  simp only [pollFrom, State.record, State.withAnswers, State.delay, List.append_assoc]
  rfl

/-! An operation that stands in the wait. -/

/-- No word is a part of the wait, so an operation that stands in it goes on (R56, R215). -/
theorem step_waiting {s : State} {n waited : Nat} {todo : List Action} (h : s.seq.todo = .poll n waited :: todo) :
    step s = .next s.resume := by
  refine step_running (by simp [h]) (awaited_none fun a todo' ha w => ?_)
  obtain ⟨rfl, -⟩ := List.cons.inj (h.symm.trans ha)
  rfl

theorem resume_waiting {s : State} {n waited : Nat} {todo : List Action} (h : s.seq.todo = .poll n waited :: todo)
    (hlisted : s.answers ≠ []) :
    s.resume = conclude s.seq.wrap ((pollFrom s.answers n waited s).andThen todo) := by
  rw [State.resume, supply_listed hlisted, h, runSeq_cons]; rfl

/-- Settles O24: each clause is one branch of `pollFrom_cons`. -/
theorem waitTakesOneSample : Obligations.WaitTakesOneSample := by
  unfold Obligations.WaitTakesOneSample
  intro s n waited todo a htodo hanswers n' sample expired
  have hstep : step s = .next (conclude s.seq.wrap ((pollFrom [a] n waited s).andThen todo)) := by
    rw [step_waiting htodo, resume_waiting htodo (by simp [hanswers]), hanswers]
  have hexpired : readyExpired s.params waited = true ↔ expired := readyExpired_iff
  have hcountAfter : countAfter n a = n' := rfl
  rw [hstep, pollFrom_cons, hcountAfter]
  refine ⟨fun hbad => ?fails, fun hok hcount => ?completes, fun hok hcount hexp => ?expires,
    fun hok hcount hexp => ?goesOn⟩
  case fails => rw [if_pos hbad]; rfl
  case completes => rw [if_neg (by simp [hok]), if_pos hcount]; rfl
  case expires => rw [if_neg (by simp [hok]), if_neg (Nat.not_le.2 hcount), if_pos (hexpired.2 hexp)]; rfl
  case goesOn => rw [if_neg (by simp [hok]), if_neg (Nat.not_le.2 hcount), if_neg (mt hexpired.1 hexp)]; rfl

/-! WAIT_READY. -/

/-- The wait alone is its loop. -/
theorem runSeq_waitReadyLines (s : State) : runSeq waitReadyLines s = pollFrom s.answers 0 0 s := by
  rw [waitReadyLines, runSeq_cons, runAction]
  cases pollFrom s.answers 0 0 s <;> simp [Run.andThen]

theorem exec_waitReady_completes {s t : State} {as : List Answer} (has : s.answers = as)
    (h : pollFrom as 0 0 s.idle = .done t) :
    exec .waitReady s = .next { t with result := 0x00#8, seq := Sequencer.idle } :=
  congrArg _ (runOp_completes ((runSeq_waitReadyLines s.idle).trans (has ▸ h)) false)

theorem exec_waitReady_raises {s t : State} {as : List Answer} {e : Err} (has : s.answers = as)
    (h : pollFrom as 0 0 s.idle = .raised e t) : exec .waitReady s = .next (t.raise false e) :=
  congrArg _ (runOp_raises ((runSeq_waitReadyLines s.idle).trans (has ▸ h)) false _)

/-- LOW samples and then READY_SAMPLES HIGH ones, as long as the wait does not expire (R104, R106). -/
theorem pollFrom_lows_highs {s : State} {lows highs : List Answer} (rest : List Answer)
    (fit : waitFits s.params (lows.length + highs.length) = true) (hlows : ∀ a ∈ lows, a.Low)
    (hhighs : ∀ a ∈ highs, a.Good) (hlen : highs.length = s.params.readySamples) :
    pollFrom (lows ++ (highs ++ rest)) 0 0 s = .done { s with
      answers := rest, trace := s.trace ++ (lowRun s.params lows.length ++ highRun s.params highs.length) } := by
  obtain ⟨hsamples, hfits⟩ := waitFits_spec fit
  by_cases hnone : lows = []
  · subst hnone
    rw [List.nil_append, pollFrom_highs highs rest 0 0 s hhighs (by omega) (by omega) (by simpa using hfits)]
    rfl
  · rw [pollFrom_lows lows _ 0 0 s hlows hsamples (fun t ht => by have := hfits t ht; omega) hnone,
      pollFrom_highs highs rest 0 _ _ hhighs (by omega) (by simpa using hlen)
        (fun t ht => by have := hfits t ht; omega)]
    simp

/-- Settles O23: the completing sample is HIGH, as one ready sample at least is asked for. -/
theorem waitReadyCompletes : Obligations.WaitReadyCompletes := by
  unfold Obligations.WaitReadyCompletes
  refine ⟨fun s ws rest x hsamples hgoesOn hok hcount hanswers => ?_,
    fun s lows highs rest fit hanswers hlows hhighs hlen => ?_⟩
  · have hhigh : x.level = .high := by
      by_contra hlow
      rw [highsAtEnd_snoc, if_neg hlow] at hcount
      omega
    have hpoll := pollFrom_goesOn_completes (s := s.idle) rest hgoesOn hok hcount
    rw [exec_waitReady_completes (by simpa using hanswers) hpoll, sampled_high hhigh, List.append_assoc]
    rfl
  · have hpoll := pollFrom_lows_highs (s := s.idle) rest fit hlows hhighs hlen
    rw [exec_waitReady_completes (by simpa using hanswers) hpoll]
    rfl

/-- Settles O25, by `pollFrom_goesOn_expires`. -/
theorem waitReadyExpires : Obligations.WaitReadyExpires := by
  unfold Obligations.WaitReadyExpires
  intro s t ws rest x hgoesOn htimeout hanswers hok hcount hwaited
  have hpoll := pollFrom_goesOn_expires (s := s.idle) rest hgoesOn hok hcount htimeout hwaited
  rw [exec_waitReady_raises (by simpa using hanswers) hpoll, List.append_assoc]
  rfl

/-- A wait that ends without an error, begun at count n, ends with the HIGH samples that were missing from the count, or
with READY_SAMPLES of them after a LOW one (R107). -/
theorem pollFrom_done_highRun : ∀ (as : List Answer) (n waited : Nat) (s t : State),
    pollFrom as n waited s = .done t → n < s.params.readySamples →
    t.trace = s.trace ++ highRun s.params (s.params.readySamples - n) ∨
      ∃ ev, t.trace = s.trace ++ ev ++ highRun s.params s.params.readySamples := by
  intro as
  induction as with
  | nil => intro n waited s t h; cases h
  | cons a rest ih =>
    intro n waited s t h hn
    rw [pollFrom_cons] at h
    split_ifs at h with hbad hcount hexpired
    · cases h
      cases hlevel : a.level with
      | low => rw [countAfter_low hlevel] at hcount; omega
      | high =>
        rw [countAfter_high hlevel] at hcount
        have hlast : s.params.readySamples - n = 1 := by omega
        exact .inl (by rw [hlast, sampled_high hlevel]; rfl)
    · obtain hrest | ⟨ev, hrest⟩ := ih _ _ _ t h (Nat.not_le.1 hcount)
      · cases hlevel : a.level with
        | low =>
          rw [countAfter_low hlevel] at hrest
          exact .inr ⟨_, hrest⟩
        | high =>
          rw [countAfter_high hlevel] at hrest hcount
          have hmore : s.params.readySamples - n = s.params.readySamples - (n + 1) + 1 := by omega
          refine .inl ?_
          rw [hrest, hmore, highRun_succ _ _ (by omega), sampled_high hlevel, List.append_assoc]
          rfl
      · exact .inr ⟨[sampled s.params a, delayed 10] ++ ev, by rw [hrest, List.append_assoc s.trace]⟩

/-- Settles O27: an operation that has ended with OK ran to its end (`runOp_idle_ok`), so its wait is one that
`pollFrom_done_highRun` speaks of. -/
theorem waitReturnsOnlyAfterReady : Obligations.WaitReturnsOnlyAfterReady := by
  unfold Obligations.WaitReturnsOnlyAfterReady
  intro s t hsamples hexec hidle hresult
  obtain ⟨u, hdone, rfl⟩ := runOp_idle_ok (Host.Outcome.next.inj hexec) hidle hresult
  rw [runSeq_append, runSeq_waitReadyLines] at hdone
  cases hpoll : pollFrom s.idle.answers 0 0 s.idle with
  | done v =>
    rw [hpoll] at hdone
    cases hdone
    obtain htrace | ⟨ev, htrace⟩ := pollFrom_done_highRun _ _ _ _ _ hpoll hsamples
    · exact ⟨[], by simpa using htrace⟩
    · exact ⟨ev, htrace⟩
  | awaits | raised => rw [hpoll] at hdone; cases hdone

end Sys2Proof.Machine
end

section
/-! SET_MODE (R101): with good answers it completes (O18); a line write (O20), a wait (O22), a close or an open (O21)
that fails ends it where it stands; and the mode it starts from changes nothing (O29). -/

namespace Sys2Proof.Machine

open Sys2Proof

theorem exec_setMode_completes {s t : State} {m : Mode} (h : runSeq (setModeLines s.params m) s.idle = .done t) :
    exec (.setMode m) s = .next { t with result := 0x00#8, seq := Sequencer.idle } :=
  congrArg _ (runOp_completes h false)

theorem exec_setMode_raises {s t : State} {m : Mode} {e : Err}
    (h : runSeq (setModeLines s.params m) s.idle = .raised e t) : exec (.setMode m) s = .next (t.raise false e) :=
  congrArg _ (runOp_raises h false _)

/-- Settles O18, by `runSeq_setModeLines`. -/
theorem setModeCompletes : Obligations.SetModeCompletes := by
  unfold Obligations.SetModeCompletes
  intro m s pre rest fit hanswers hlen hgood
  rw [exec_setMode_completes (runSeq_setModeLines (s := s.idle) m rfl hanswers hlen hgood fit)]
  rfl

/-! A line write that fails. -/

theorem writeModeLines_atomic {p : Params} (h : p.modeWriteOrder = .atomic) (m : Mode) :
    writeModeLines p m = [.writeBoth m] := by rw [writeModeLines, h]

theorem writeModeLines_aThenB {p : Params} (h : p.modeWriteOrder = .aThenB) (m : Mode) :
    writeModeLines p m = [.writeA m, .writeB m] := by rw [writeModeLines, h]

theorem writeModeLines_bThenA {p : Params} (h : p.modeWriteOrder = .bThenA) (m : Mode) :
    writeModeLines p m = [.writeB m, .writeA m] := by rw [writeModeLines, h]

/-- An error in WriteModeLines ends SET_MODE (R102, R202). -/
theorem exec_setMode_writes_raise {s t : State} {m : Mode} {e : Err} {writes : List Action}
    (hwrites : writeModeLines s.params m = writes) (h : runSeq writes s.idle = .raised e t) :
    exec (.setMode m) s = .next (t.raise false e) :=
  exec_setMode_raises (runSeq_append_raised (runSeq_append_raised (runSeq_append_raised (hwrites ▸ h) _) _) _)

/-- Settles O20: the rules of the failed writes, first and second, in each order. -/
theorem failedLineWrite : Obligations.FailedLineWrite := by
  unfold Obligations.FailedLineWrite
  intro m s a rest hanswers
  have ha : s.idle.answers = a :: rest := hanswers
  refine ⟨fun hbad horder => ?both, fun hbad horder => ?firstA, fun hbad horder => ?firstB,
    fun b rest' hok hrest hbad horder => ?secondB, fun b rest' hok hrest hbad horder => ?secondA⟩
  case both =>
    rw [exec_setMode_writes_raise (writeModeLines_atomic horder m)
      (runSeq_cons_raised (runAction_writeBoth_fails m ha hbad) _)]
    rfl
  case firstA =>
    rw [exec_setMode_writes_raise (writeModeLines_aThenB horder m)
      (runSeq_cons_raised (runAction_writeA_fails m ha hbad) _)]
    rfl
  case firstB =>
    rw [exec_setMode_writes_raise (writeModeLines_bThenA horder m)
      (runSeq_cons_raised (runAction_writeB_fails m ha hbad) _)]
    rfl
  case secondB =>
    rw [exec_setMode_writes_raise (writeModeLines_aThenB horder m)
      ((runSeq_cons_done (runAction_writeA_ok m ha hok) _).trans
        (runSeq_cons_raised (runAction_writeB_fails m hrest hbad) _))]
    simp only [List.append_assoc]
    rfl
  case secondA =>
    rw [exec_setMode_writes_raise (writeModeLines_bThenA horder m)
      ((runSeq_cons_done (runAction_writeB_ok m ha hok) _).trans
        (runSeq_cons_raised (runAction_writeA_fails m hrest hbad) _))]
    simp only [List.append_assoc]
    rfl

/-! A wait that fails. -/

/-- SET_MODE(m) has written the lines and MODE_STATE, with the events ev so far and rest the answers still to come; the
port is as it was (R101). -/
def State.committed (s : State) (m : Mode) (ev : List Event) (rest : List Answer) : State :=
  { s.inMode m with
    serialOpen := s.serialOpen, serialCfg := s.serialCfg, answers := rest, trace := s.trace ++ ev }

@[simp] theorem State.committed_params (s : State) (m : Mode) (ev : List Event) (rest : List Answer) :
    (s.committed m ev rest).params = s.params := rfl
@[simp] theorem State.committed_trace (s : State) (m : Mode) (ev : List Event) (rest : List Answer) :
    (s.committed m ev rest).trace = s.trace ++ ev := rfl

/-- An error in the wait ends SET_MODE, its lines written and MODE_STATE set (R101 (d), (e), R202). -/
theorem exec_setMode_wait_raises {s t : State} {m : Mode} {e : Err} {pre ws : List Answer}
    (hanswers : s.answers = pre ++ ws) (hlen : pre.length = lineCost s.params) (hok : ∀ a ∈ pre, a.fails = false)
    (h : pollFrom ws 0 0 (s.idle.committed m (lineEvents s.params m) ws) = .raised e t) :
    exec (.setMode m) s = .next (t.raise false e) := by
  have hcommit := runSeq_linesCommit (s := s.idle) m rfl hanswers hlen hok
  have hwait : runSeq (writeModeLines s.params m ++ [.commitMode m] ++ waitReadyLines) s.idle = .raised e t :=
    (runSeq_append_done hcommit _).trans ((runSeq_waitReadyLines _).trans h)
  exact exec_setMode_raises (runSeq_append_raised hwait _)

/-- Settles O22: the two ways in which a wait fails after samples that left it going on. -/
theorem failedWaitKeepsLinesAndPort : Obligations.FailedWaitKeepsLinesAndPort := by
  unfold Obligations.FailedWaitKeepsLinesAndPort
  intro m s pre ws rest x hlen hok hgoesOn hanswers after ev
  have ha : s.answers = pre ++ (ws ++ x :: rest) := by simpa using hanswers
  refine ⟨fun hbad => ?_, fun t hgood hcount htimeout hwaited => ?_⟩
  · rw [exec_setMode_wait_raises ha hlen hok (pollFrom_goesOn_fails rest hgoesOn hbad)]
    simp only [State.committed_trace, State.committed_params, List.append_assoc, ev]
    rfl
  · rw [exec_setMode_wait_raises ha hlen hok (pollFrom_goesOn_expires rest hgoesOn hgood hcount htimeout hwaited)]
    simp only [State.committed_trace, State.committed_params, List.append_assoc, ev]
    rfl

/-! A close or an open that fails. -/

theorem runAction_closePort_closed {s : State} (h : s.serialOpen = false) : runAction .closePort s = .done s := by
  simp [runAction, h]

theorem runAction_closePort_ok {s : State} {x : Answer} {rest : List Answer} (h : s.serialOpen = true)
    (hx : s.answers = x :: rest) (hok : x.fails = false) : runAction .closePort s = .done { s with
      serialOpen := false, answers := rest, trace := s.trace ++ [⟨.serialClose s.params.port, .ok⟩] } := by
  rw [runAction, if_pos h, attempt_ok _ _ _ _ hx hok]; rfl

theorem runAction_closePort_fails {s : State} {x : Answer} {rest : List Answer} (h : s.serialOpen = true)
    (hx : s.answers = x :: rest) (hbad : x.fails = true) : runAction .closePort s = .raised .io { s.losePort with
      answers := rest, trace := s.trace ++ [⟨.serialClose s.params.port, .ioError⟩] } := by
  rw [runAction, if_pos h, attempt_fails _ _ _ _ hx hbad]; rfl

theorem runAction_openPort_fails {s : State} {x : Answer} {rest : List Answer} (m : Mode)
    (hx : s.answers = x :: rest) (hbad : x.fails = true) : runAction (.openPort m) s = .raised .io { s.losePort with
      answers := rest, trace := s.trace ++ [⟨.serialOpen s.params.port (portCfg s.params m), .ioError⟩] } := by
  rw [runAction, attempt_fails _ _ _ _ hx hbad]; rfl

/-- An error in ReconfigureSerial ends SET_MODE, its lines written, MODE_STATE set and the wait passed (R101, R103). -/
theorem exec_setMode_port_raises {s t : State} {m : Mode} {e : Err} {pre rest : List Answer}
    (fit : waitFits s.params s.params.readySamples = true) (hanswers : s.answers = pre ++ rest)
    (hlen : pre.length = lineCost s.params + s.params.readySamples) (hgood : ∀ a ∈ pre, a.Good)
    (h : runSeq (reconfigureSerial m)
      (s.idle.committed m (lineEvents s.params m ++ highRun s.params s.params.readySamples) rest) = .raised e t) :
    exec (.setMode m) s = .next (t.raise false e) :=
  exec_setMode_raises
    ((runSeq_append_done (runSeq_linesWait (s := s.idle) m rfl hanswers hlen hgood fit) _).trans h)

/-- Settles O21: an open port is closed first, and a closed one is not. -/
theorem failedPortReopen : Obligations.FailedPortReopen := by
  unfold Obligations.FailedPortReopen
  intro m s pre rest x fit hlen hgood hbad ev after
  refine ⟨fun hopen hanswers => ?closeFails, fun c hok hopen hanswers => ?openFails, fun hclosed hanswers => ?closed⟩
  case closeFails =>
    have hclose := runAction_closePort_fails (s := s.idle.committed m ev (x :: rest)) hopen rfl hbad
    rw [exec_setMode_port_raises fit (by simpa using hanswers) hlen hgood (runSeq_cons_raised hclose _)]
    simp only [State.committed_trace, List.append_assoc]
    rfl
  case openFails =>
    have hclose := runAction_closePort_ok (s := s.idle.committed m ev (c :: x :: rest)) hopen rfl hok
    rw [exec_setMode_port_raises fit (by simpa using hanswers) hlen hgood
      ((runSeq_cons_done hclose _).trans (runSeq_cons_raised (runAction_openPort_fails m rfl hbad) _))]
    simp only [State.committed_trace, List.append_assoc]
    rfl
  case closed =>
    have hskip := runAction_closePort_closed (s := s.idle.committed m ev (x :: rest)) hclosed
    rw [exec_setMode_port_raises fit (by simpa using hanswers) hlen hgood
      ((runSeq_cons_done hskip _).trans (runSeq_cons_raised (runAction_openPort_fails m rfl hbad) _))]
    simp only [State.committed_trace, List.append_assoc]
    rfl

/-! The mode it starts from. -/

/-- The state with another MODE_STATE (R25). -/
def State.withMode (s : State) (m : Mode) : State := { s with mode := m }

theorem State.idle_withMode (s : State) (m : Mode) : (s.withMode m).idle = s.idle.withMode m := rfl

/-- What is left of SET_MODE(m) once MODE_STATE is written (R101). -/
def afterCommit (m : Mode) : List Action := waitReadyLines ++ reconfigureSerial m ++ [.resultOk]

theorem setModeLines_eq (p : Params) (m : Mode) :
    setModeLines p m ++ [.resultOk] = writeModeLines p m ++ (.commitMode m :: afterCommit m) := by
  simp [setModeLines, afterCommit]

/-- A line write does not read MODE_STATE. -/
theorem runAction_drives_withMode {a : Action} (h : a.drivesLines = true) (m : Mode) (s : State) :
    runAction a (s.withMode m) = (runAction a s).map (·.withMode m) := by
  cases a with
  | writeBoth | writeA | writeB =>
    simp only [runAction]
    exact attempt_map (·.withMode m) (fun _ => rfl) (fun _ _ => rfl) (fun _ _ _ => rfl) _ _ _ _ (fun _ => rfl)
      (fun _ => rfl) s
  | _ => cases h

theorem writeModeLines_drive {p : Params} {m : Mode} {a : Action} (h : a ∈ writeModeLines p m) :
    a.drivesLines = true := by
  obtain rfl | rfl | rfl := writeModeLines_mem h <;> rfl

theorem runSeq_writeModeLines_withMode (p : Params) (m m₀ : Mode) (s : State) :
    runSeq (writeModeLines p m) (s.withMode m₀) = (runSeq (writeModeLines p m) s).map (·.withMode m₀) :=
  runSeq_map (·.withMode m₀) (·.drivesLines = true) (fun _ ha => runAction_drives_withMode ha m₀) _
    (fun _ => writeModeLines_drive) s

/-- What is left after MODE_STATE <- m keeps it m. -/
theorem runSeq_afterCommit_mode {p : Params} {m : Mode} {s : State} (h : s.mode = m) :
    (runSeq (afterCommit m) s).state.mode = m := by
  refine runSeq_rel (· ∈ setModeLines p m ++ [.resultOk]) (fun s t => s.mode = m → t.mode = m) (fun _ h => h)
    (fun _ _ _ hst htu h => htu (hst h)) (fun a ha s hs => ?_) (afterCommit m) s
    (fun a ha => by rw [setModeLines_eq]; simp [ha]) h
  obtain ha | ha := List.mem_append.1 ha
  · exact (runAction_setMode_mode ha s).elim (·.trans hs) id
  · rw [List.mem_singleton.1 ha]; exact hs

/-- Once the lines are written, SET_MODE goes on from MODE_STATE <- m. -/
theorem runOp_setMode_of_written {s u : State} {p : Params} {m : Mode}
    (h : runSeq (writeModeLines p m) s.idle = .done u) (wrap : Bool) :
    runOp wrap (setModeLines p m ++ [.resultOk]) s = conclude wrap (runSeq (afterCommit m) (u.withMode m)) := by
  rw [runOp, setModeLines_eq, runSeq_append_done h, runSeq_cons_done rfl]; rfl

/-- Before the lines are written, it does not read MODE_STATE. -/
theorem runOp_setMode_of_not_written {s : State} {p : Params} {m : Mode}
    (h : ¬ ∃ u, runSeq (writeModeLines p m) s.idle = .done u) (wrap : Bool) (m₀ : Mode) :
    runOp wrap (setModeLines p m ++ [.resultOk]) (s.withMode m₀) =
      (runOp wrap (setModeLines p m ++ [.resultOk]) s).withMode m₀ := by
  rw [runOp, runOp, setModeLines_eq, runSeq_append, runSeq_append, State.idle_withMode,
    runSeq_writeModeLines_withMode]
  cases hwrites : runSeq (writeModeLines p m) s.idle with
  | done u => exact absurd ⟨u, hwrites⟩ h
  | awaits | raised => rfl

/-- A SET_MODE that has ended with OK has written the lines. -/
theorem written_of_setMode_ok {s : State} {p : Params} {m : Mode} {wrap : Bool}
    (hidle : (runOp wrap (setModeLines p m ++ [.resultOk]) s).IsIdle)
    (hresult : (runOp wrap (setModeLines p m ++ [.resultOk]) s).result = 0x00#8) :
    ∃ u, runSeq (writeModeLines p m) s.idle = .done u := by
  obtain ⟨v, hdone, -⟩ := runOp_idle_ok rfl hidle hresult
  rw [setModeLines_eq, runSeq_append] at hdone
  cases hwrites : runSeq (writeModeLines p m) s.idle with
  | done u => exact ⟨u, rfl⟩
  | awaits | raised => rw [hwrites] at hdone; cases hdone

/-- Settles O29: a SET_MODE that has written the lines overwrites MODE_STATE (`runOp_setMode_of_written`); one that has
not does not read it (`runOp_setMode_of_not_written`) and has not ended with OK. -/
theorem setModeIgnoresTheOldMode : Obligations.SetModeIgnoresTheOldMode := by
  unfold Obligations.SetModeIgnoresTheOldMode
  intro m m₀ s t hexec
  obtain rfl := Host.Outcome.next.inj hexec
  change ∃ x, exec (.setMode m) (s.withMode m₀) = _ ∧ _
  by_cases hwritten : ∃ u, runSeq (writeModeLines s.params m) s.idle = .done u
  · obtain ⟨u, hu⟩ := hwritten
    have hother : runSeq (writeModeLines s.params m) (s.withMode m₀).idle = .done (u.withMode m₀) := by
      rw [State.idle_withMode, runSeq_writeModeLines_withMode, hu]; rfl
    have hsame := runOp_setMode_of_written hu false
    have hmode : (runOp false (setModeLines s.params m ++ [.resultOk]) s).mode = m := by
      rw [hsame, conclude_view State.mode]
      exact runSeq_afterCommit_mode (p := s.params) rfl
    exact ⟨_, congrArg Host.Outcome.next ((runOp_setMode_of_written hother false).trans hsame.symm),
      fun _ _ => ⟨rfl, hmode⟩⟩
  · exact ⟨m₀, congrArg Host.Outcome.next (runOp_setMode_of_not_written hwritten false m₀),
      fun hidle hresult => absurd (written_of_setMode_ok hidle hresult) hwritten⟩

end Sys2Proof.Machine
end

section
/-! The hang (R105, O26): with no timeout a wait whose samples are all LOW ends nowhere. `pollFrom_hangs` says so of the
loop; each operation that calls the wait inherits it. -/

namespace Sys2Proof.Machine

open Sys2Proof

/-- The loop takes any number of LOW samples and stands before the next one (R105; log entry 6). -/
theorem pollFrom_hangs {s : State} {lows : List Answer} {n : Nat} (waited : Nat) (hsamples : 1 ≤ s.params.readySamples)
    (hnone : s.params.readyTimeoutMs = none) (hlows : ∀ a ∈ lows, a.Low) (hn : lows = [] → n = 0) :
    pollFrom lows n waited s = .awaits [.poll 0 (waited + 10 * lows.length)]
      { s with answers := [], trace := s.trace ++ lowRun s.params lows.length } := by
  by_cases hempty : lows = []
  · obtain rfl := hempty
    obtain rfl := hn rfl
    simp [pollFrom_nil, State.withAnswers, lowRun]
  · have hpoll := pollFrom_lows lows [] n waited s hlows hsamples (by simp [hnone]) hempty
    rw [List.append_nil] at hpoll
    rw [hpoll, pollFrom_nil]
    rfl

/-! The first wait of an operation. -/

/-- SET_MODE(m), the lines written and any LOW samples taken, stands before the next sample (R101, R105). -/
theorem runSeq_setModeLines_hangs {s : State} {m : Mode} {pre lows : List Answer}
    (hsamples : 1 ≤ s.params.readySamples) (hnone : s.params.readyTimeoutMs = none) (hanswers : s.answers = pre ++ lows)
    (hlen : pre.length = lineCost s.params) (hok : ∀ a ∈ pre, a.fails = false) (hlows : ∀ a ∈ lows, a.Low)
    (todo : List Action) :
    runSeq (setModeLines s.params m ++ todo) s =
      .awaits (.poll 0 (10 * lows.length) :: .closePort :: .openPort m :: todo)
        (s.committed m (lineEvents s.params m ++ lowRun s.params lows.length) []) := by
  have hcommit := runSeq_linesCommit m rfl hanswers hlen hok
  have hpoll := pollFrom_hangs (s := s.committed m (lineEvents s.params m) lows) (n := 0) 0 hsamples hnone hlows
    fun _ => rfl
  have hwait : runSeq (writeModeLines s.params m ++ [.commitMode m] ++ waitReadyLines) s =
      .awaits [.poll 0 (10 * lows.length)]
        (s.committed m (lineEvents s.params m ++ lowRun s.params lows.length) []) := by
    rw [runSeq_append_done hcommit, runSeq_waitReadyLines]
    refine hpoll.trans ?_
    simp only [State.committed_trace, State.committed_params, List.append_assoc, Nat.zero_add]
    rfl
  exact runSeq_append_awaits (runSeq_append_awaits hwait (reconfigureSerial m)) todo

/-- The operations that begin with a SET_MODE (R101, R160, R163 to R165). -/
theorem exec_begins_setMode {x : Instr × Mode}
    (hx : x ∈ [(Instr.setMode .normal, Mode.normal), (.setMode .wakeup, .wakeup), (.setMode .powerSaving, .powerSaving),
      (.setMode .program, .program), (.readCfg, .program), (.readVer, .program), (.writeCfg, .program),
      (.resetModule, .program)]) (s : State) :
    ∃ todo, exec x.1 s = .next (runOp false (setModeLines s.params x.2 ++ todo) s) := by
  simp only [List.mem_cons, List.not_mem_nil, or_false] at hx
  obtain rfl | rfl | rfl | rfl | rfl | rfl | rfl | rfl := hx
  all_goals
    simp only [exec, execSetMode, execReadCfg, execReadVer, execWriteCfg, execResetModule, readCfgLines, readVerLines,
      writeCfgLines, resetModuleLines, List.append_assoc]
    exact ⟨_, rfl⟩

/-- INITIALIZE sets the three directions and then begins with SET_MODE(Normal) (R171). -/
theorem exec_initBlock_begins (s : State) :
    ∃ todo, exec .initBlock s = .next (runOp true
      ([.setDirBusy, .setDirModeA, .setDirModeB] ++ (setModeLines s.params .normal ++ todo)) s) := by
  simp only [exec, execInitBlock, initLines, List.append_assoc]
  exact ⟨_, rfl⟩

/-- The pins have their directions, with rest the answers still to come (R27, R171). -/
def State.directed (s : State) (rest : List Answer) : State :=
  { s with
    gpioDir := ⟨.input, .output, .output⟩, answers := rest
    trace := s.trace ++ [⟨.gpioSetDir s.params.pinBusy .input, .ok⟩, ⟨.gpioSetDir s.params.pinModeA .output, .ok⟩,
      ⟨.gpioSetDir s.params.pinModeB .output, .ok⟩] }

/-- The three directions, with answers that succeed (R27, R171). -/
theorem runSeq_setDirs {s : State} {d₁ d₂ d₃ : Answer} {rest : List Answer}
    (hanswers : s.answers = d₁ :: d₂ :: d₃ :: rest) (hok : ∀ d ∈ [d₁, d₂, d₃], d.fails = false) :
    runSeq [.setDirBusy, .setDirModeA, .setDirModeB] s = .done (s.directed rest) := by
  simp only [List.forall_mem_cons] at hok
  obtain ⟨hok₁, hok₂, hok₃, -⟩ := hok
  simp [runSeq, runAction, attempt, hanswers, hok₁, hok₂, hok₃, State.directed, State.record, State.withAnswers]

/-! A wait that an operation stands in. -/

/-- An operation that stands in a wait stands in it again after LOW samples, with nothing changed but the events and the
time waited (R105). -/
theorem resume_hangs {s : State} {n waited : Nat} {todo : List Action} (hsamples : 1 ≤ s.params.readySamples)
    (hnone : s.params.readyTimeoutMs = none) (htodo : s.seq.todo = .poll n waited :: todo) (hlisted : s.answers ≠ [])
    (hlows : ∀ a ∈ s.answers, a.Low) :
    s.resume = { s with
      answers := [], trace := s.trace ++ lowRun s.params s.answers.length
      seq := ⟨.poll 0 (waited + 10 * s.answers.length) :: todo, s.seq.wrap, s.seq.held⟩ } := by
  rw [resume_waiting htodo hlisted, pollFrom_hangs waited hsamples hnone hlows fun hempty => absurd hempty hlisted]
  rfl

/-- A sample that State does not list is the oracle's (log entry 6). -/
theorem step_waiting_drawn {s : State} {n waited : Nat} {todo : List Action}
    (htodo : s.seq.todo = .poll n waited :: todo) (hempty : s.answers = []) :
    step s = step { s with answers := [Config.oracle s.asked], asked := s.asked + 1 } := by
  rw [step_waiting htodo, step_waiting (s := { s with answers := [Config.oracle s.asked], asked := s.asked + 1 }) htodo,
    State.resume, State.resume, supply_drawn hempty]
  rfl

/-- The states of an operation that goes on from s with one listed sample a step. -/
def State.along (s : State) (samples : Nat → Answer) : Nat → State
  | 0 => s
  | k + 1 => State.resume { s.along samples k with answers := [samples k] }

/-- The operation that stands in a wait in s still does in t, `waited` having been waited, with no RESULT written. -/
structure StillWaits (s t : State) (waited : Nat) (todo : List Action) : Prop where
  params : t.params = s.params
  result : t.result = s.result
  waits : ∃ n, t.seq.todo = .poll n waited :: todo

theorem StillWaits.resume_low {s t : State} {waited : Nat} {todo : List Action} (h : StillWaits s t waited todo)
    (hsamples : 1 ≤ s.params.readySamples) (hnone : s.params.readyTimeoutMs = none) {low : Answer} (hlow : low.Low) :
    StillWaits s (State.resume { t with answers := [low] }) (waited + 10) todo := by
  obtain ⟨hparams, hresult, n, htodo⟩ := h
  rw [resume_hangs (s := { t with answers := [low] }) (by simpa [hparams] using hsamples)
    (by simpa [hparams] using hnone) htodo (by simp) (by simpa using hlow)]
  exact ⟨hparams, hresult, 0, rfl⟩

/-- With LOW samples for ever the wait never ends (R105). -/
theorem along_stillWaits {s : State} {n waited : Nat} {todo : List Action} {low : Nat → Answer}
    (hsamples : 1 ≤ s.params.readySamples) (hnone : s.params.readyTimeoutMs = none)
    (htodo : s.seq.todo = .poll n waited :: todo) (hlow : ∀ k, (low k).Low) (k : Nat) :
    StillWaits s (s.along low k) (waited + 10 * k) todo := by
  induction k with
  | zero => exact ⟨rfl, rfl, n, htodo⟩
  | succ k ih => exact ih.resume_low hsamples hnone (hlow k)

/-- Settles O26: the first wait of each operation by `runSeq_setModeLines_hangs`, a wait that is under way by
`resume_hangs`, and the infinite execution by `along_stillWaits`. -/
theorem hangIsKept : Obligations.HangIsKept := by
  unfold Obligations.HangIsKept
  refine ⟨?waitReady, ?setMode, ?initBlock, ?again, ?drawn, ?forever⟩
  case waitReady =>
    intro s hsamples hnone hlows
    have hwait : runSeq waitReadyLines s.idle = _ := (runSeq_waitReadyLines s.idle).trans
      (pollFrom_hangs (s := s.idle) (n := 0) 0 hsamples hnone hlows fun _ => rfl)
    rw [exec, execWaitReady, runOp, runSeq_append_awaits hwait, Nat.zero_add]
    rfl
  case setMode =>
    intro s pre lows hsamples hnone hanswers hlen hok hlows x hx
    obtain ⟨todo, hexec⟩ := exec_begins_setMode hx s
    have hrun := runSeq_setModeLines_hangs (s := s.idle) (m := x.2) hsamples hnone hanswers hlen hok hlows todo
    refine ⟨todo, ?_⟩
    rw [hexec, runOp, ← State.idle_params s, hrun, List.append_assoc]
    rfl
  case initBlock =>
    intro s d₁ d₂ d₃ pre lows hsamples hnone hanswers hdirs hlen hok hlows
    obtain ⟨todo, hexec⟩ := exec_initBlock_begins s
    have hdirected := runSeq_setDirs (s := s.idle) (rest := pre ++ lows) (by simpa using hanswers) hdirs
    have hrun := runSeq_setModeLines_hangs (s := s.idle.directed (pre ++ lows)) (m := .normal) hsamples hnone rfl hlen
      hok hlows todo
    have hparams : s.params = (s.idle.directed (pre ++ lows)).params := rfl
    refine ⟨todo, ?_⟩
    rw [hexec, runOp, runSeq_append_done hdirected, hparams, hrun, List.append_assoc]
    rfl
  case again =>
    intro s n waited todo hsamples hnone htodo hlisted hlows
    rw [step_waiting htodo, resume_hangs hsamples hnone htodo hlisted hlows]
  case drawn => exact fun s n waited todo => step_waiting_drawn
  case forever =>
    intro s n waited todo low hsamples hnone htodo hlow
    have hwaits := along_stillWaits hsamples hnone htodo hlow
    refine ⟨s.along low, rfl, fun k => ?_⟩
    obtain ⟨-, hresult, n', hpoll⟩ := hwaits k
    exact ⟨step_waiting (s := { s.along low k with answers := [low k] }) hpoll, hresult, n', hpoll⟩

end Sys2Proof.Machine
end

section
/-! The register codec on whole frames and registers (O9 to O17): the raw fields that stand between a frame and a
register are read from and put into the bytes by the table laws of Sys2Proof/Laws/Codec.lean, and the round trips of
the frame follow from those of the raw fields. -/

namespace Sys2Proof.Machine

open Sys2Proof

/-! The three operations by what their pure functions answer. -/

theorem exec_decodeCfg_ok {s : State} {c : ConfigurationRegister}
    (h : decodeCfgFrame s.params.powerTable s.frameIn = .ok c) :
    exec .decodeCfg s = .next { s.idle with cfgOut := c, result := codeOk } := by
  simp only [exec, execDecodeCfg, h]

theorem exec_decodeCfg_error {s : State} {b : Byte}
    (h : decodeCfgFrame s.params.powerTable s.frameIn = .error b) :
    exec .decodeCfg s = .next (s.raise false (.protocol b)) := by
  simp only [exec, execDecodeCfg, h]

theorem exec_decodeVer_ok {s : State} {v : VersionInfo} (h : decodeVerFrame s.frameIn = .ok v) :
    exec .decodeVer s = .next { s.idle with verOut := v, result := codeOk } := by
  simp only [exec, execDecodeVer, h]

theorem exec_decodeVer_error {s : State} {b : Byte} (h : decodeVerFrame s.frameIn = .error b) :
    exec .decodeVer s = .next (s.raise false (.protocol b)) := by
  simp only [exec, execDecodeVer, h]

/-- Settles O10: no other header decodes (`decodeCfgFrame_other`). -/
theorem decodeCfgRejectsOtherHeaders : Obligations.DecodeCfgRejectsOtherHeaders :=
  fun _ hpersist hvolatile => exec_decodeCfg_error (decodeCfgFrame_other _ hpersist hvolatile)

/-- Settles O12: the header alone decides which of the two clauses holds. -/
theorem decodeVerReadsBytes : Obligations.DecodeVerReadsBytes :=
  ⟨by decide, fun _ => ⟨fun hversion => exec_decodeVer_ok (if_pos hversion),
    fun hother => exec_decodeVer_error (decodeVerFrame_other hother)⟩⟩

/-! The register a frame decodes to, and the frame a register encodes to, byte by byte. -/

/-- Every field of the register by the bytes of the frame (R52, R78, R121). -/
theorem decodeFields_ofFrame (pt : PowerTable) (persistent : Bool) (f : Frame6) :
    decodeFields pt persistent (CfgFields.ofFrame f) =
      { persistent := persistent
        address := BitVec.ofNat 16 (256 * f.b1.toNat + f.b2.toNat)
        parity := [Parity.none, .odd, .even, .none].getD (f.b3.toNat / 64) .none
        baud := [1200, 2400, 4800, 9600, 19200, 38400, 57600, 115200].getD (f.b3.toNat / 8 % 8) 0
        airRate := [300, 1200, 2400, 4800, 9600, 19200, 19200, 19200].getD (f.b3.toNat % 8) 0
        channel := f.b4
        fixed := decide (f.b5.toNat / 128 = 1)
        pullup := decide (f.b5.toNat / 64 % 2 = 1)
        wakeup := 250 * (f.b5.toNat / 8 % 8 + 1)
        fec := decide (f.b5.toNat / 4 % 2 = 1)
        power := (powerLevels pt).getD (f.b5.toNat % 4) 0 } := by
  simp only [decodeFields, CfgFields.ofFrame, append_bytes, parity_of_byte, baud_of_byte, airRate_of_byte,
    wakeup_of_byte, power_of_byte, getLsbD_seven, getLsbD_six, getLsbD_two]

/-- Settles O9: a valid header decodes (`decodeCfgFrame_of_header`), and `decodeFields_ofFrame` says to what. -/
theorem decodeCfgReadsEveryField : Obligations.DecodeCfgReadsEveryField := by
  unfold Obligations.DecodeCfgReadsEveryField
  intro s hheader
  rw [exec_decodeCfg_ok (decodeCfgFrame_of_header _ _ hheader).1, decodeFields_ofFrame]
  rfl

/-- The high byte of the address (R52). -/
theorem address_high_byte (a : BitVec 16) : a.extractLsb' 8 8 = BitVec.ofNat 8 (a.toNat / 256) := by
  rw [BitVec.extractLsb', Nat.shiftRight_eq_div_pow]

/-- The low byte of the address (R52). -/
theorem address_low_byte (a : BitVec 16) : a.extractLsb' 0 8 = BitVec.ofNat 8 (a.toNat % 256) := by
  apply BitVec.eq_of_toNat_eq
  simp

theorem encodeFields_baud_toNat (pt : PowerTable) (c : ConfigurationRegister) :
    (encodeFields pt c).baud.toNat =
      placeOf [1200, 2400, 4800, 9600, 19200, 38400, 57600, 115200] c.baud :=
  tableEnc_toNat 3 baudTable c.baud (by decide)

theorem encodeFields_air_toNat (pt : PowerTable) (c : ConfigurationRegister) :
    (encodeFields pt c).air.toNat = placeOf [300, 1200, 2400, 4800, 9600, 19200] c.airRate :=
  (tableEnc_toNat 3 airTable c.airRate (by decide)).trans (placeOf_airTable c.airRate)

theorem encodeFields_wakeup_toNat (pt : PowerTable) (c : ConfigurationRegister) :
    (encodeFields pt c).wakeup.toNat = placeOf [250, 500, 750, 1000, 1250, 1500, 1750, 2000] c.wakeup :=
  tableEnc_toNat 3 wakeTable c.wakeup (by decide)

theorem powerTable_length (pt : PowerTable) : (powerTable pt).length = 4 := by cases pt <;> rfl

theorem encodeFields_power_toNat (pt : PowerTable) (c : ConfigurationRegister) :
    (encodeFields pt c).power.toNat = placeOf (powerLevels pt) c.power := by
  rw [← powerTable_eq]
  exact tableEnc_toNat 2 (powerTable pt) c.power (powerTable_length pt).le

/-- Every byte of the frame by the fields of the register (R130). -/
theorem encodeCfgFrame_eq (pt : PowerTable) (c : ConfigurationRegister) :
    encodeCfgFrame pt c =
      { b0 := if c.persistent then 0xC0#8 else 0xC2#8
        b1 := BitVec.ofNat 8 (c.address.toNat / 256)
        b2 := BitVec.ofNat 8 (c.address.toNat % 256)
        b3 := BitVec.ofNat 8 (64 * parityPlace c.parity
          + 8 * placeOf [1200, 2400, 4800, 9600, 19200, 38400, 57600, 115200] c.baud
          + placeOf [300, 1200, 2400, 4800, 9600, 19200] c.airRate)
        b4 := c.channel
        b5 := BitVec.ofNat 8 (128 * bitOf c.fixed + 64 * bitOf c.pullup
          + 8 * placeOf [250, 500, 750, 1000, 1250, 1500, 1750, 2000] c.wakeup
          + 4 * bitOf c.fec + placeOf (powerLevels pt) c.power) } := by
  rw [← encodeFields_baud_toNat pt, ← encodeFields_air_toNat pt, ← encodeFields_wakeup_toNat pt,
    ← encodeFields_power_toNat, ← address_high_byte, ← address_low_byte, ← byte3_of_codes, ← byte5_of_codes]
  rfl

/-- Settles O11: ENCODE_CFG puts out what the register encodes to (`encodeCfgFrame_eq`). -/
theorem encodeCfgPlacesEveryField : Obligations.EncodeCfgPlacesEveryField := by
  unfold Obligations.EncodeCfgPlacesEveryField
  refine ⟨by decide, fun s => ?_⟩
  rw [← encodeCfgFrame_eq]
  rfl

/-- Settles O13: a valid header decodes (`decodeCfgFrame_of_header`), and every raw code gives a canonical value
(`decodeFields_canonical`). -/
theorem decodeIsPermissive : Obligations.DecodeIsPermissive :=
  fun pt f hheader => ⟨_, (decodeCfgFrame_of_header pt f hheader).1, decodeFields_canonical pt _ _⟩

/-! The codes that encoding emits. -/

/-- The raw fields of an encoded register are canonical (R131). -/
theorem encodeFields_canonical (pt : PowerTable) (c : ConfigurationRegister) :
    (encodeFields pt c).canonical = true := by
  have hparity : (encodeFields pt c).parity ≠ 3#2 := parityCode_ne_three c.parity
  have hair : (encodeFields pt c).air.toNat ≤ 5 := airCode_le_five c.airRate
  have hair6 : (encodeFields pt c).air ≠ 6#3 := fun h => by simp [h] at hair
  have hair7 : (encodeFields pt c).air ≠ 7#3 := fun h => by simp [h] at hair
  simp [CfgFields.canonical, hparity, hair6, hair7]

/-- An encoded register is, as bytes to send, a well-formed write frame (R74, R131). -/
theorem encodeCfgFrame_sent (pt : PowerTable) (c : ConfigurationRegister) :
    ∃ i, decode (.tx (encodeCfgFrame pt c).bytes) = .ok i ∧ i.wellFormed = true := by
  have hdecodes := decodeOfEncodeGivesInstructionBack
  unfold encodeCfgFrame
  split
  · exact ⟨_, hdecodes (.wireWritePersist (encodeFields pt c)), encodeFields_canonical pt c⟩
  · exact ⟨_, hdecodes (.wireWriteVolatile (encodeFields pt c)), encodeFields_canonical pt c⟩

/-- Settles O14: byte 3 holds the codes that the tables emit (`byte3_fields`), which are never the duplicates. -/
theorem encodeEmitsCanonicalFrames : Obligations.EncodeEmitsCanonicalFrames := by
  unfold Obligations.EncodeEmitsCanonicalFrames
  intro pt c
  obtain ⟨hparity, hair⟩ : (encodeCfgFrame pt c).b3.toNat / 64 = (encodeFields pt c).parity.toNat ∧
      (encodeCfgFrame pt c).b3.toNat % 8 = (encodeFields pt c).air.toNat := byte3_fields _ _ _
  have hparity_ne : (encodeFields pt c).parity.toNat ≠ 3 := fun h =>
    parityCode_ne_three c.parity (BitVec.eq_of_toNat_eq h)
  have hair_le : (encodeFields pt c).air.toNat ≤ 5 := airCode_le_five c.airRate
  rw [hparity, hair]
  exact ⟨hparity_ne, by omega, by omega, encodeCfgFrame_sent pt c⟩

/-! A frame decoded and encoded again. -/

/-- Byte 3 once its codes are turned to canonical ones (R150). -/
def canonicalByte3 (b : Byte) : Byte :=
  BitVec.ofNat 8 (64 * (if b.toNat / 64 = 3 then 0 else b.toNat / 64)
    + 8 * (b.toNat / 8 % 8) + (if 6 ≤ b.toNat % 8 then 5 else b.toNat % 8))

/-- The codes of byte 3, turned to canonical ones each by itself. -/
theorem canonicalByte3_eq_append (b : Byte) :
    (if b.extractLsb' 6 2 = 3#2 then 0#2 else b.extractLsb' 6 2) ++ b.extractLsb' 3 3 ++
      (if 6#3 ≤ b.extractLsb' 0 3 then 5#3 else b.extractLsb' 0 3) = canonicalByte3 b := by
  revert b; decide

/-- Byte 3 stays as it is exactly when its codes are canonical (R150). -/
theorem canonicalByte3_eq_self_iff (b : Byte) :
    canonicalByte3 b = b ↔ b.toNat / 64 ≠ 3 ∧ b.toNat % 8 ≠ 6 ∧ b.toNat % 8 ≠ 7 := by
  revert b; decide

/-- Other parity and air codes change byte 3 of the frame and nothing else (R78). -/
theorem toFrame_with_codes (h : Byte) (c : CfgFields) (p : BitVec 2) (a : BitVec 3) :
    ({ c with parity := p, air := a } : CfgFields).toFrame h = { c.toFrame h with b3 := p ++ c.baud ++ a } := rfl

/-- What encoding gives back of a decoded frame: byte 3 with canonical codes, and the other bytes (R150). -/
theorem encodeCfgFrame_decodeFields (pt : PowerTable) {f : Frame6} (hheader : f.b0 = 0xC0#8 ∨ f.b0 = 0xC2#8) :
    encodeCfgFrame pt (decodeFields pt (decide (f.b0 = 0xC0#8)) (CfgFields.ofFrame f)) =
      { f with b3 := canonicalByte3 f.b3 } := by
  have hkept : (if (decodeFields pt (decide (f.b0 = 0xC0#8)) (CfgFields.ofFrame f)).persistent then Config.hdrPersist
      else Config.hdrVolatile) = f.b0 := (decodeCfgFrame_of_header pt f hheader).2
  rw [encodeCfgFrame, hkept, encodeFields_decodeFields, toFrame_with_codes, toFrame_ofFrame,
    ← canonicalByte3_eq_append]
  rfl

/-- Settles O15: by `encodeCfgFrame_decodeFields` only byte 3 can differ, and `canonicalByte3_eq_self_iff` says when it
does. -/
theorem encodeAfterDecode : Obligations.EncodeAfterDecode := by
  unfold Obligations.EncodeAfterDecode
  intro pt f hheader
  have hencode := encodeCfgFrame_decodeFields pt hheader
  refine ⟨_, (decodeCfgFrame_of_header pt f hheader).1, ?_, hencode⟩
  rw [hencode, ← canonicalByte3_eq_self_iff]
  exact ⟨congrArg Frame6.b3, fun h => by rw [h]⟩

/-! A register encoded and decoded again. -/

/-- The register's raw fields come back as they were put in (R78, R130). -/
theorem decodeCfgFrame_encodeCfgFrame (pt : PowerTable) (c : ConfigurationRegister) :
    decodeCfgFrame pt (encodeCfgFrame pt c) = .ok (decodeFields pt c.persistent (encodeFields pt c)) := by
  unfold encodeCfgFrame
  cases c.persistent with
  | true => exact decodeCfgFrame_persist pt _
  | false => exact decodeCfgFrame_volatile pt _

/-- Every parity has a code of its own (R81). -/
theorem parity_roundtrip (p : Parity) : tableDec parityTable .none (tableEnc 2 parityTable p) = p := by
  cases p <;> decide

/-- A field that is not canonical comes back as its code-0 value, every other as it was (R151). -/
theorem decodeFields_encodeFields (pt : PowerTable) (c : ConfigurationRegister) :
    decodeFields pt c.persistent (encodeFields pt c) = { c with
      baud := if canonicalBaud c.baud then c.baud else 1200
      airRate := if canonicalAir c.airRate then c.airRate else 300
      wakeup := if canonicalWake c.wakeup then c.wakeup else 250
      power := if canonicalPower pt c.power then c.power else (powerLevels pt).getD 0 0 } := by
  have hbaud := tableDec_tableEnc 3 baudTable _ 9600 1200 c.baud (fun _ => Iff.rfl) (by decide) rfl
  have hair := tableDec_tableEnc 3 airTable [300, 1200, 2400, 4800, 9600, 19200] 2400 300 c.airRate
    (fun _ => by simp [airTable]) (by decide) rfl
  have hwake := tableDec_tableEnc 3 wakeTable _ 250 250 c.wakeup (fun _ => Iff.rfl) (by decide) rfl
  have hpower := tableDec_tableEnc 2 (powerTable pt) (powerLevels pt) 30 ((powerLevels pt).getD 0 0) c.power
    (fun _ => by rw [powerTable_eq]) (powerTable_length pt).le (by cases pt <;> rfl)
  rw [decodeFields, encodeFields, hbaud, hair, hwake, hpower, parity_roundtrip]
  rfl

/-- What decoding gives back of an encoded register is the register, when it is canonical (R151). -/
theorem decodeCfgFrame_encodeCfgFrame_of_canonical {pt : PowerTable} {c : ConfigurationRegister}
    (h : c.Canonical pt) : decodeCfgFrame pt (encodeCfgFrame pt c) = .ok c := by
  obtain ⟨hbaud, hair, hwake, hpower⟩ := h
  rw [decodeCfgFrame_encodeCfgFrame, decodeFields_encodeFields, if_pos hbaud, if_pos hair, if_pos hwake, if_pos hpower]

/-- Settles O16: what comes back is `decodeFields_encodeFields`; it is always canonical (`decodeCfgFrame_canonical`), so
it can be the register only when that is. -/
theorem decodeAfterEncode : Obligations.DecodeAfterEncode :=
  fun pt c => ⟨⟨decodeCfgFrame_canonical, decodeCfgFrame_encodeCfgFrame_of_canonical⟩,
    (decodeCfgFrame_encodeCfgFrame pt c).trans (congrArg _ (decodeFields_encodeFields pt c))⟩

/-- Settles O17: a decoded register is canonical (`decodeCfgFrame_canonical`), so O16 gives it back. -/
theorem decodedRegisterIsStable : Obligations.DecodedRegisterIsStable :=
  fun _ _ _ hdecode => have hcanonical := decodeCfgFrame_canonical hdecode
    ⟨hcanonical, decodeCfgFrame_encodeCfgFrame_of_canonical hcanonical⟩

end Sys2Proof.Machine
end

section
/-! The command sequences with the environment's answers given (O30 to O33, O35 to O37): a SET_MODE(Program) and its
SerialWrite (`SetModeAnswers.sends`), the SerialRead after it (`ReadAnswers.run`) and the return to Normal
(`ReadAnswers.returns`) are each said once, for any bytes sent and whatever is read. -/

namespace Sys2Proof.Machine

open Sys2Proof

/-! The state a sequence has come to. -/

/-- The events ev have happened, with rest the answers still to come. -/
def State.performed (s : State) (ev : List Event) (rest : List Answer) : State :=
  { s with trace := s.trace ++ ev, answers := rest }

theorem State.performed_performed (s : State) (ev ev' : List Event) (rest rest' : List Answer) :
    (s.performed ev rest).performed ev' rest' = s.performed (ev ++ ev') rest' := by
  simp [State.performed, List.append_assoc]

/-! SET_MODE and a SerialWrite. -/

/-- Answers with which a SET_MODE goes through that finds the port open or not (R101, R106). -/
structure SetModeAnswers (p : Params) (isOpen : Bool) (l : List Answer) : Prop where
  fit : waitFits p p.readySamples = true
  length : l.length = setModeCost p isOpen
  good : ∀ a ∈ l, a.Good

theorem SetModeAnswers.run {s : State} {l rest : List Answer} (h : SetModeAnswers s.params s.serialOpen l)
    (hanswers : s.answers = l ++ rest) (m : Mode) : runSeq (setModeLines s.params m) s =
      .done ((s.inMode m).performed (setModeEvents s.params s.serialOpen m) rest) :=
  runSeq_setModeLines m rfl hanswers h.length h.good h.fit

/-- One that follows another overwrites what that one left in the Mode Controller's state (R101). -/
theorem SetModeAnswers.runAgain {s : State} {l : List Answer} (h : SetModeAnswers s.params true l) (m m' : Mode)
    (ev : List Event) (rest : List Answer) :
    runSeq (setModeLines s.params m') ((s.inMode m).performed ev (l ++ rest)) =
      .done ((s.inMode m').performed (ev ++ setModeEvents s.params true m') rest) := by
  have hrun := SetModeAnswers.run (s := (s.inMode m).performed ev (l ++ rest)) h rfl m'
  exact hrun.trans (congrArg _ (State.performed_performed (s.inMode m') _ _ _ _))

/-- The wait of RESET_MODULE when every sample is HIGH (R165). -/
theorem runSeq_waitReady_performed {s : State} {wait : List Answer} (ev : List Event) (rest : List Answer)
    (hlen : wait.length = s.params.readySamples) (hgood : ∀ a ∈ wait, a.Good)
    (fit : waitFits s.params s.params.readySamples = true) :
    runSeq waitReadyLines (s.performed ev (wait ++ rest)) =
      .done (s.performed (ev ++ highRun s.params s.params.readySamples) rest) := by
  have hwait := runSeq_waitReady (s := s.performed ev (wait ++ rest)) rfl rfl hlen hgood fit
  exact hwait.trans (congrArg _ (State.performed_performed s _ _ _ _))

/-- Which word a line is part of depends on the parameters and CFG_IN alone (R163). -/
theorem standsAt_congr {s t : State} (hparams : t.params = s.params) (hcfgIn : t.cfgIn = s.cfgIn) (a : Action)
    (w : FetchWord) : a.standsAt t w = a.standsAt s w := by
  unfold Action.standsAt
  rw [hparams, hcfgIn]

/-- A line that stands for a SerialWrite in s performs it after a SET_MODE too. -/
theorem runAction_sends {s : State} {a : Action} {bytes : List Byte} (ha : a.standsAt s (.tx bytes) = true) (m : Mode)
    (ev : List Event) (as : List Answer) :
    runAction a ((s.inMode m).performed ev as) = sendBytes a bytes ((s.inMode m).performed ev as) :=
  runAction_of_standsAt_tx ((standsAt_congr rfl rfl a (.tx bytes)).trans ha)

/-- SET_MODE(Program) and then the SerialWrite of a frame, in a line that stands for it (R170). -/
theorem SetModeAnswers.sends {s : State} {l rest : List Answer} {w : Answer} {a : Action} {bytes : List Byte}
    (h : SetModeAnswers s.params s.serialOpen l) (hanswers : s.answers = l ++ w :: rest)
    (ha : a.standsAt s (.tx bytes) = true) (hw : w.fails = false) :
    runSeq (setModeLines s.params .program ++ [a]) s = .done ((s.inMode .program).performed
      (setModeEvents s.params s.serialOpen .program ++ [sent s.params bytes]) rest) := by
  rw [runSeq_append_done (h.run hanswers .program),
    runSeq_cons_done ((runAction_sends ha _ _ _).trans (attempt_ok _ _ _ _ rfl hw)), ← State.performed_performed]
  rfl

/-- The SerialWrite fails (R203). -/
theorem SetModeAnswers.sendFails {s : State} {l rest : List Answer} {w : Answer} {a : Action} {bytes : List Byte}
    (h : SetModeAnswers s.params s.serialOpen l) (hanswers : s.answers = l ++ w :: rest)
    (ha : a.standsAt s (.tx bytes) = true) (hw : w.fails = true) :
    runSeq (setModeLines s.params .program ++ [a]) s = .raised .io ((s.inMode .program).performed
      (setModeEvents s.params s.serialOpen .program ++ [⟨.serialWrite s.params.port bytes, .ioError⟩]) rest) := by
  rw [runSeq_append_done (h.run hanswers .program),
    runSeq_cons_raised ((runAction_sends ha _ _ _).trans (attempt_fails _ _ _ _ rfl hw)), ← State.performed_performed]
  rfl

theorem send_standsAt (s : State) (bytes : List Byte) : (Action.send bytes).standsAt s (.tx bytes) = true :=
  standsAt_tx_iff.2 (.inl rfl)

theorem sendCfgIn_standsAt (s : State) :
    Action.sendCfgIn.standsAt s (.tx (encodeCfgFrame s.params.powerTable s.cfgIn).bytes) = true :=
  standsAt_tx_iff.2 (.inr ⟨rfl, rfl⟩)

/-! The SerialRead of READ_CFG and READ_VER. -/

/-- What the local `r` holds after a SerialRead that returned rx, none being TIMEOUT (R161). -/
def heldOf : Option Frame6 → Held
  | none => .timeout
  | some f => .bytes f

theorem heldOf_timeout {rx : Option Frame6} : heldOf rx = .timeout ↔ rx = none := by
  cases rx <;> simp [heldOf]

/-- The event of a SerialRead that returned rx (R161). -/
def readEvent (p : Params) : Option Frame6 → Event
  | none => readTimedOut p
  | some f => received p f

theorem runAction_receive_ok {s : State} {r : Answer} {rest : List Answer} (hr : s.answers = r :: rest)
    (hok : r.fails = false) : runAction .receive s =
      .done ((s.performed [readEvent s.params r.rx] rest).hold (heldOf r.rx)) := by
  cases hrx : r.rx <;> simp only [runAction, readResponse, hr, hok, hrx] <;> rfl

theorem runAction_receive_fails {s : State} {r : Answer} {rest : List Answer} (hr : s.answers = r :: rest)
    (hbad : r.fails = true) : runAction .receive s =
      .raised .io (s.performed [⟨.serialRead s.params.port 6 20, .ioError⟩] rest) := by
  simp only [runAction, readResponse, hr, hbad]
  rfl

/-- A timeout is raised at once only without RESTORE_ON_READ_TIMEOUT (R162). -/
theorem runAction_giveUpEarly_goesOn {s : State} (h : s.seq.held = .timeout → s.params.restoreOnReadTimeout = true) :
    runAction .giveUpEarly s = .done s :=
  if_neg fun ⟨htimeout, hnoRestore⟩ => by simp [h htimeout] at hnoRestore

theorem runAction_giveUpEarly_raises {s : State} (htimeout : s.seq.held = .timeout)
    (hnoRestore : s.params.restoreOnReadTimeout = false) : runAction .giveUpEarly s = .raised .timeoutRead s :=
  if_pos ⟨htimeout, hnoRestore⟩

/-- Answers with which READ_CFG or READ_VER comes through its SerialRead, which returns rx, and those after them. -/
def ReadAnswers (s : State) (rx : Option Frame6) (rest : List Answer) : Prop :=
  ∃ pre w r, s.answers = pre ++ w :: r :: rest ∧ SetModeAnswers s.params s.serialOpen pre ∧ w.fails = false ∧
    r.fails = false ∧ r.rx = rx

/-- The events of a read up to its SerialRead (R160, R164). -/
def readEvents (p : Params) (isOpen : Bool) (command : List Byte) (rx : Option Frame6) : List Event :=
  setModeEvents p isOpen .program ++ [sent p command, readEvent p rx]

/-- The block has sent the command and read rx, and is still in Program. -/
def State.hasRead (s : State) (command : List Byte) (rx : Option Frame6) (rest : List Answer) : State :=
  ((s.inMode .program).performed (readEvents s.params s.serialOpen command rx) rest).hold (heldOf rx)

/-- The block has sent the command, read rx and returned to Normal. -/
def State.hasReturned (s : State) (command : List Byte) (rx : Option Frame6) (rest : List Answer) : State :=
  ((s.inMode .normal).performed
    (readEvents s.params s.serialOpen command rx ++ setModeEvents s.params true .normal) rest).hold (heldOf rx)

/-- A read up to its SerialRead. -/
theorem ReadAnswers.run {s : State} {rx : Option Frame6} {rest : List Answer} (h : ReadAnswers s rx rest)
    (command : List Byte) : runSeq (setModeLines s.params .program ++ [.send command] ++ [.receive]) s =
      .done (s.hasRead command rx rest) := by
  obtain ⟨pre, w, r, hanswers, hprogram, hw, hr, rfl⟩ := h
  rw [runSeq_append_done (hprogram.sends hanswers (send_standsAt s command) hw),
    runSeq_cons_done (runAction_receive_ok rfl hr), State.performed_performed, List.append_assoc]
  rfl

theorem readStart_eq (p : Params) (command : List Byte) : readStart p command =
    setModeLines p .program ++ [.send command] ++ [.receive] ++ (.giveUpEarly :: setModeLines p .normal) := by
  simp [readStart]

/-- A read up to the taking up of its response: with bytes, or with RESTORE_ON_READ_TIMEOUT, it returns to Normal
first (R160, R162). -/
theorem ReadAnswers.returns {s : State} {rx : Option Frame6} {post rest : List Answer}
    (h : ReadAnswers s rx (post ++ rest)) (hback : SetModeAnswers s.params true post)
    (hrestore : rx = none → s.params.restoreOnReadTimeout = true) (command : List Byte) :
    runSeq (readStart s.params command) s = .done (s.hasReturned command rx rest) := by
  have hgoesOn : runAction .giveUpEarly (s.hasRead command rx (post ++ rest)) = .done _ :=
    runAction_giveUpEarly_goesOn fun htimeout => hrestore (heldOf_timeout.1 htimeout)
  rw [readStart_eq, runSeq_append_done (h.run command), runSeq_cons_done hgoesOn]
  exact hback.runAgain (s := s.hold (heldOf rx)) .program .normal _ rest

/-- Without RESTORE_ON_READ_TIMEOUT a read that times out ends in Program (R162). -/
theorem ReadAnswers.givesUp {s : State} {rest : List Answer} (h : ReadAnswers s none rest)
    (hnoRestore : s.params.restoreOnReadTimeout = false) (command : List Byte) :
    runSeq (readStart s.params command) s = .raised .timeoutRead (s.hasRead command none rest) := by
  rw [readStart_eq, runSeq_append_done (h.run command)]
  exact runSeq_cons_raised (runAction_giveUpEarly_raises (s := s.hasRead command none rest) rfl hnoRestore) _

/-- READ_CFG has returned to Normal and kept the register c that its response f decodes to (R160). -/
def State.hasCfg (s : State) (f : Frame6) (c : ConfigurationRegister) (rest : List Answer) : State :=
  { s.hasReturned (wire3 Config.cmdReadParams) (some f) rest with cfgOut := c, cfgCache := some c }

/-- READ_VER has returned to Normal and kept the record v that its response f decodes to (R164). -/
def State.hasVer (s : State) (f : Frame6) (v : VersionInfo) (rest : List Answer) : State :=
  { s.hasReturned (wire3 Config.cmdReadVersion) (some f) rest with verOut := v, verCache := some v }

theorem ReadAnswers.keepsCfg {s : State} {f : Frame6} {c : ConfigurationRegister} {post rest : List Answer}
    (h : ReadAnswers s (some f) (post ++ rest)) (hback : SetModeAnswers s.params true post)
    (hdecode : decodeCfgFrame s.params.powerTable f = .ok c) :
    runSeq (readCfgLines s.params) s = .done (s.hasCfg f c rest) := by
  rw [readCfgLines_eq, runSeq_append_done (h.returns hback nofun _)]
  exact runSeq_cons_done (runAction_acceptCfg_ok (s := s.hasReturned _ _ rest) rfl hdecode) []

theorem ReadAnswers.keepsVer {s : State} {f : Frame6} {v : VersionInfo} {post rest : List Answer}
    (h : ReadAnswers s (some f) (post ++ rest)) (hback : SetModeAnswers s.params true post)
    (hdecode : decodeVerFrame f = .ok v) :
    runSeq (readVerLines s.params) s = .done (s.hasVer f v rest) := by
  rw [readVerLines_eq, runSeq_append_done (h.returns hback nofun _)]
  exact runSeq_cons_done (runAction_acceptVer_ok rfl hdecode) []

/-- A read whose last line raises an error, back in Normal (R160, R164). -/
theorem ReadAnswers.acceptRaises {s : State} {rx : Option Frame6} {post rest : List Answer} {accept : Action} {e : Err}
    (h : ReadAnswers s rx (post ++ rest)) (hback : SetModeAnswers s.params true post)
    (hrestore : rx = none → s.params.restoreOnReadTimeout = true) (command : List Byte)
    (hraises : runAction accept (s.hasReturned command rx rest) = .raised e (s.hasReturned command rx rest)) :
    runSeq (readStart s.params command ++ [accept]) s = .raised e (s.hasReturned command rx rest) := by
  rw [runSeq_append_done (h.returns hback hrestore command)]
  exact runSeq_cons_raised hraises []

/-! The obligations. -/

/-- The answers that O30 to O33 list are those of a read and of its return to Normal. -/
theorem readAnswers_of_listed {s : State} {pre post rest : List Answer} {w r : Answer} {rx : Option Frame6}
    (fit : waitFits s.params s.params.readySamples = true) (hanswers : s.answers = pre ++ [w, r] ++ post ++ rest)
    (hpre : pre.length = setModeCost s.params s.serialOpen) (hpost : post.length = setModeCost s.params true)
    (hgood : ∀ a ∈ pre ++ post, a.Good) (hw : w.fails = false) (hr : r.fails = false) (hrx : r.rx = rx) :
    ReadAnswers s.idle rx (post ++ rest) ∧ SetModeAnswers s.params true post := by
  obtain ⟨hgoodPre, hgoodPost⟩ := List.forall_mem_append.1 hgood
  exact ⟨⟨pre, w, r, by simpa using hanswers, ⟨fit, hpre, hgoodPre⟩, hw, hr, hrx⟩, fit, hpost, hgoodPost⟩

/-- Settles O30, by `ReadAnswers.keepsCfg`. -/
theorem readCfgCompletes : Obligations.ReadCfgCompletes := by
  unfold Obligations.ReadCfgCompletes
  intro s pre post rest w r f c fit hanswers hpre hpost hgood hw hr hrx hdecode
  obtain ⟨hread, hback⟩ := readAnswers_of_listed fit hanswers hpre hpost hgood hw hr hrx
  exact congrArg _ (runOp_completes (hread.keepsCfg hback hdecode) false)

/-- Settles O31, by `ReadAnswers.keepsVer`. -/
theorem readVerCompletes : Obligations.ReadVerCompletes := by
  unfold Obligations.ReadVerCompletes
  intro s pre post rest w r f fit hanswers hpre hpost hgood hw hr hrx hversion
  obtain ⟨hread, hback⟩ := readAnswers_of_listed fit hanswers hpre hpost hgood hw hr hrx
  exact congrArg _ (runOp_completes (hread.keepsVer hback (if_pos hversion)) false)

/-- Settles O32: no other header decodes, and the response is taken up in Normal (`ReadAnswers.acceptRaises`). -/
theorem wrongResponseHeader : Obligations.WrongResponseHeader := by
  unfold Obligations.WrongResponseHeader
  intro s pre post rest w r f fit hanswers hpre hpost hgood hw hr hrx
  obtain ⟨hread, hback⟩ := readAnswers_of_listed fit hanswers hpre hpost hgood hw hr hrx
  refine ⟨fun hpersist hvolatile => ?_, fun hversion => ?_⟩
  · exact congrArg _ (runOp_raises (hread.acceptRaises (accept := .acceptCfg) hback nofun _
      (runAction_acceptCfg_error rfl (decodeCfgFrame_other _ hpersist hvolatile))) false _)
  · exact congrArg _ (runOp_raises (hread.acceptRaises (accept := .acceptVer) hback nofun _
      (runAction_acceptVer_error rfl (decodeVerFrame_other hversion))) false _)

/-- Both reads are one run of lines but for the bytes sent and the line that takes the response up; with nothing
received that line raises the timeout (R160, R162, R164). -/
theorem exec_read {x : Instr × List Byte}
    (hx : x ∈ [(Instr.readCfg, [0xC1#8, 0xC1#8, 0xC1#8]), (Instr.readVer, [0xC3#8, 0xC3#8, 0xC3#8])]) :
    ∃ accept, (∀ s, exec x.1 s = .next (runOp false (readStart s.params x.2 ++ [accept, .resultOk]) s)) ∧
      ∀ s, s.seq.held = .timeout → runAction accept s = .raised .timeoutRead s := by
  simp only [List.mem_cons, List.not_mem_nil, or_false] at hx
  obtain rfl | rfl := hx
  · exact ⟨.acceptCfg, exec_readCfg, fun s htimeout => by rw [runAction, acceptHeldCfg, htimeout]⟩
  · exact ⟨.acceptVer, exec_readVer, fun s htimeout => by rw [runAction, acceptHeldVer, htimeout]⟩

/-- Settles O33: the timeout is raised by the last line, or at once (`ReadAnswers.givesUp`). -/
theorem readTimeout : Obligations.ReadTimeout := by
  unfold Obligations.ReadTimeout
  intro s pre post rest w r fit hanswers hpre hpost hgood hw hr hrx x hx
  obtain ⟨hread, hback⟩ := readAnswers_of_listed fit hanswers hpre hpost hgood hw hr hrx
  obtain ⟨accept, hexec, htimeout⟩ := exec_read hx
  refine ⟨fun hrestore => ?_, fun hnoRestore => ?_⟩
  · have hraises := hread.acceptRaises hback (fun _ => hrestore) x.2 (htimeout _ rfl)
    rw [hexec, List.append_cons]
    exact congrArg _ (runOp_raises hraises false _)
  · exact (hexec s).trans (congrArg _ (runOp_raises (hread.givesUp hnoRestore x.2) false _))

/-- Settles O35: WRITE_CFG is a SET_MODE(Program), a SerialWrite (`SetModeAnswers.sends`) and a SET_MODE(Normal). -/
theorem writeCfgCompletes : Obligations.WriteCfgCompletes := by
  unfold Obligations.WriteCfgCompletes
  intro s pre post rest w fit hanswers hpre hpost hgood hw
  obtain ⟨hgoodPre, hgoodPost⟩ := List.forall_mem_append.1 hgood
  have hprogram : SetModeAnswers s.params s.serialOpen pre := ⟨fit, hpre, hgoodPre⟩
  have hback : SetModeAnswers s.params true post := ⟨fit, hpost, hgoodPost⟩
  have hsent := hprogram.sends (s := s.idle) (rest := post ++ rest) (by simpa using hanswers)
    (sendCfgIn_standsAt s.idle) hw
  have hlines := (runSeq_append_done hsent _).trans (hback.runAgain (s := s.idle) .program .normal _ rest)
  exact congrArg _ (runOp_completes hlines false)

/-- Settles O36: RESET_MODULE is a SET_MODE(Program), a SerialWrite, a wait and a SET_MODE(Program). -/
theorem resetModuleCompletes : Obligations.ResetModuleCompletes := by
  unfold Obligations.ResetModuleCompletes
  intro s pre wait post rest w fit hanswers hpre hwait hpost hgood hw
  obtain ⟨hgood, hgoodPost⟩ := List.forall_mem_append.1 hgood
  obtain ⟨hgoodPre, hgoodWait⟩ := List.forall_mem_append.1 hgood
  have hprogram : SetModeAnswers s.params s.serialOpen pre := ⟨fit, hpre, hgoodPre⟩
  have hback : SetModeAnswers s.params true post := ⟨fit, hpost, hgoodPost⟩
  have hsent := hprogram.sends (s := s.idle) (rest := wait ++ (post ++ rest)) (by simpa using hanswers)
    (send_standsAt s.idle (wire3 Config.cmdReset)) hw
  have hwaited := (runSeq_append_done hsent waitReadyLines).trans
    (runSeq_waitReady_performed _ (post ++ rest) hwait hgoodWait fit)
  have hlines := (runSeq_append_done hwaited _).trans (hback.runAgain (s := s.idle) .program .program _ rest)
  exact congrArg _ (runOp_completes hlines false)

/-- The four sequences send a frame after their SET_MODE(Program) (R160, R163 to R165). -/
theorem exec_sends {s : State} {x : Instr × List Byte}
    (hx : x ∈ [(Instr.readCfg, [0xC1#8, 0xC1#8, 0xC1#8]), (Instr.readVer, [0xC3#8, 0xC3#8, 0xC3#8]),
      (Instr.resetModule, [0xC4#8, 0xC4#8, 0xC4#8]),
      (Instr.writeCfg, (encodeCfgFrame s.params.powerTable s.cfgIn).bytes)]) :
    ∃ a todo, a.standsAt s (.tx x.2) = true ∧
      exec x.1 s = .next (runOp false (setModeLines s.params .program ++ a :: todo) s) := by
  simp only [List.mem_cons, List.not_mem_nil, or_false] at hx
  obtain rfl | rfl | rfl | rfl := hx <;>
    simp only [exec, execReadCfg, execReadVer, execResetModule, execWriteCfg, readCfgLines, readVerLines,
      resetModuleLines, writeCfgLines, List.append_assoc]
  · exact ⟨_, _, send_standsAt s _, rfl⟩
  · exact ⟨_, _, send_standsAt s _, rfl⟩
  · exact ⟨_, _, send_standsAt s _, rfl⟩
  · exact ⟨_, _, sendCfgIn_standsAt s, rfl⟩

/-- Settles O37: the first line that can fail after SET_MODE(Program) is the SerialWrite (`SetModeAnswers.sendFails`),
the second the SerialRead. -/
theorem failedSendLeavesProgram : Obligations.FailedSendLeavesProgram := by
  unfold Obligations.FailedSendLeavesProgram
  intro s pre fit hpre hgood
  have hprogram : SetModeAnswers s.params s.serialOpen pre := ⟨fit, hpre, hgood⟩
  refine ⟨fun w rest hanswers hw x hx => ?send, fun w r rest hanswers hw hr x hx => ?read⟩
  case send =>
    obtain ⟨a, todo, ha, hexec⟩ := exec_sends hx
    have hfails := hprogram.sendFails (s := s.idle) (by simpa using hanswers)
      ((standsAt_congr (t := s.idle) rfl rfl a _).trans ha) hw
    rw [hexec, List.append_cons]
    exact congrArg _ (runOp_raises hfails false todo)
  case read =>
    obtain ⟨accept, hexec, -⟩ := exec_read hx
    have hsent := hprogram.sends (s := s.idle) (rest := r :: rest) (by simpa using hanswers)
      (send_standsAt s.idle x.2) hw
    have hfails := (runSeq_append_done hsent [.receive]).trans (runSeq_cons_raised (runAction_receive_fails rfl hr) [])
    rw [hexec s, readStart_eq, List.append_assoc]
    refine congrArg _ ((runOp_raises hfails false _).trans ?_)
    rw [State.performed_performed, List.append_assoc]
    rfl

end Sys2Proof.Machine
end

section
/-! INITIALIZE with the environment's answers given (O38, O40), and what an INITIALIZE that fails in one of its reads
keeps (O42): a read that raises an error has changed neither output register nor cache (`runSeq_raised_lastLine`). -/

namespace Sys2Proof.Machine

open Sys2Proof

/-- An error in what INITIALIZE encloses ends it with INIT_ERROR of it (R172). -/
theorem exec_initBlock_raises {s t : State} {e : Err} (h : runSeq (initLines s.params) s.idle = .raised e t) :
    exec .initBlock s = .next (t.raise true e) :=
  congrArg _ (runOp_raises h true _)

/-! Good answers. -/

/-- INITIALIZE has set the three directions and completed its SET_MODE(Normal) (R171). -/
def State.booted (s : State) (rest : List Answer) : State :=
  ((s.directed rest).inMode .normal).performed (setModeEvents s.params s.serialOpen .normal) rest

@[simp] theorem State.booted_params (s : State) (rest : List Answer) : (s.booted rest).params = s.params := rfl
@[simp] theorem State.booted_serialOpen (s : State) (rest : List Answer) : (s.booted rest).serialOpen = true := rfl
@[simp] theorem State.hasVer_params (s : State) (f : Frame6) (v : VersionInfo) (rest : List Answer) :
    (s.hasVer f v rest).params = s.params := rfl
@[simp] theorem State.hasVer_serialOpen (s : State) (f : Frame6) (v : VersionInfo) (rest : List Answer) :
    (s.hasVer f v rest).serialOpen = true := rfl

theorem runSeq_boot {s : State} {d₁ d₂ d₃ : Answer} {l rest : List Answer}
    (hanswers : s.answers = d₁ :: d₂ :: d₃ :: (l ++ rest)) (hok : ∀ d ∈ [d₁, d₂, d₃], d.fails = false)
    (h : SetModeAnswers s.params s.serialOpen l) :
    runSeq ([.setDirBusy, .setDirModeA, .setDirModeB] ++ setModeLines s.params .normal) s = .done (s.booted rest) := by
  rw [runSeq_append_done (runSeq_setDirs hanswers hok)]
  exact SetModeAnswers.run (s := s.directed (l ++ rest)) h rfl .normal

/-- The directions, SET_MODE(Normal) and the two reads in one: the later of the modes and all the events stand (R171,
R233). -/
theorem ended_booted_hasVer_hasCfg (s : State) (v f : Frame6) (info : VersionInfo) (c : ConfigurationRegister)
    (afterBoot afterVer rest : List Answer) :
    { ((s.idle.booted afterBoot).hasVer v info afterVer).hasCfg f c rest with
      result := 0x00#8, seq := Sequencer.idle } =
    { (s.inMode .normal).ended
      ([⟨.gpioSetDir s.params.pinBusy .input, .ok⟩, ⟨.gpioSetDir s.params.pinModeA .output, .ok⟩,
        ⟨.gpioSetDir s.params.pinModeB .output, .ok⟩]
        ++ setModeEvents s.params s.serialOpen .normal
        ++ readEvents s.params true (wire3 Config.cmdReadVersion) (some v) ++ setModeEvents s.params true .normal
        ++ readEvents s.params true (wire3 Config.cmdReadParams) (some f) ++ setModeEvents s.params true .normal)
        rest 0x00#8 with
      gpioDir := ⟨.input, .output, .output⟩, verOut := info, verCache := some info
      cfgOut := c, cfgCache := some c } := by
  simp [State.hasCfg, State.hasVer, State.hasReturned, State.booted, State.directed, State.performed, State.ended,
    State.inMode, State.hold]

/-- Settles O38: the directions and SET_MODE(Normal) by `runSeq_boot`, then READ_VER and READ_CFG, each begun in the
state that the one before it has left. -/
theorem initializeCompletes : Obligations.InitializeCompletes := by
  unfold Obligations.InitializeCompletes
  intro s d₁ d₂ d₃ wv rv wc rc a₀ a₁ a₂ a₃ a₄ rest v f c fit hanswers hok hlen₀ hlen hgood hrv hversion hrc hdecode
  simp only [List.forall_mem_cons, List.forall_mem_append] at hok hlen hgood
  obtain ⟨hd₁, hd₂, hd₃, hwv, hrvOk, hwc, hrcOk, -⟩ := hok
  obtain ⟨hlen₁, hlen₂, hlen₃, hlen₄, -⟩ := hlen
  obtain ⟨⟨⟨⟨hgood₀, hgood₁⟩, hgood₂⟩, hgood₃⟩, hgood₄⟩ := hgood
  have setMode {l : List Answer} (hl : l.length = setModeCost s.params true) (hg : ∀ a ∈ l, a.Good) :
    SetModeAnswers s.params true l := ⟨fit, hl, hg⟩
  obtain ⟨afterVer, hafterVer⟩ : ∃ l, l = a₃ ++ wc :: rc :: (a₄ ++ rest) := ⟨_, rfl⟩
  obtain ⟨afterBoot, hafterBoot⟩ : ∃ l, l = a₁ ++ wv :: rv :: (a₂ ++ afterVer) := ⟨_, rfl⟩
  have hboot := runSeq_boot (s := s.idle) (rest := afterBoot) (by simpa [hafterBoot, hafterVer] using hanswers)
    (by simp [hd₁, hd₂, hd₃]) ⟨fit, hlen₀, hgood₀⟩
  have hreadVer : ReadAnswers (s.idle.booted afterBoot) (some v) (a₂ ++ afterVer) :=
    ⟨a₁, wv, rv, hafterBoot, setMode hlen₁ hgood₁, hwv, hrvOk, hrv⟩
  have hver := hreadVer.keepsVer (setMode hlen₂ hgood₂) (if_pos hversion)
  have hreadCfg : ReadAnswers ((s.idle.booted afterBoot).hasVer v ⟨v.b1, v.b2, v.b3⟩ afterVer) (some f) (a₄ ++ rest) :=
    ⟨a₃, wc, rc, hafterVer, by simpa using setMode hlen₃ hgood₃, hwc, hrcOk, hrc⟩
  have hcfg := hreadCfg.keepsCfg (by simpa using setMode hlen₄ hgood₄) (by simpa using hdecode)
  simp only [State.hasVer_params, State.booted_params, State.idle_params] at hboot hver hcfg
  have hlines := (runSeq_append_done ((runSeq_append_done hboot _).trans hver) _).trans hcfg
  have hended := (runOp_completes hlines true).trans (ended_booted_hasVer_hasCfg s v f _ c afterBoot afterVer rest)
  simp only [readEvents, ← List.append_assoc] at hended
  exact congrArg _ hended

/-! A direction that cannot be set. -/

theorem runAction_setDirBusy_ok {s : State} {x : Answer} {rest : List Answer} (hx : s.answers = x :: rest)
    (hok : x.fails = false) : runAction .setDirBusy s =
    .done { s.performed [⟨.gpioSetDir s.params.pinBusy .input, .ok⟩] rest with
      gpioDir := { s.gpioDir with busy := .input } } := by
  rw [runAction, attempt_ok _ _ _ _ hx hok]; rfl

theorem runAction_setDirModeA_ok {s : State} {x : Answer} {rest : List Answer} (hx : s.answers = x :: rest)
    (hok : x.fails = false) : runAction .setDirModeA s =
    .done { s.performed [⟨.gpioSetDir s.params.pinModeA .output, .ok⟩] rest with
      gpioDir := { s.gpioDir with modeA := .output } } := by
  rw [runAction, attempt_ok _ _ _ _ hx hok]; rfl

theorem runAction_setDirBusy_fails {s : State} {x : Answer} {rest : List Answer} (hx : s.answers = x :: rest)
    (hbad : x.fails = true) : runAction .setDirBusy s =
    .raised .io (s.performed [⟨.gpioSetDir s.params.pinBusy .input, .ioError⟩] rest) := by
  rw [runAction, attempt_fails _ _ _ _ hx hbad]; rfl

theorem runAction_setDirModeA_fails {s : State} {x : Answer} {rest : List Answer} (hx : s.answers = x :: rest)
    (hbad : x.fails = true) : runAction .setDirModeA s =
    .raised .io (s.performed [⟨.gpioSetDir s.params.pinModeA .output, .ioError⟩] rest) := by
  rw [runAction, attempt_fails _ _ _ _ hx hbad]; rfl

theorem runAction_setDirModeB_fails {s : State} {x : Answer} {rest : List Answer} (hx : s.answers = x :: rest)
    (hbad : x.fails = true) : runAction .setDirModeB s =
    .raised .io (s.performed [⟨.gpioSetDir s.params.pinModeB .output, .ioError⟩] rest) := by
  rw [runAction, attempt_fails _ _ _ _ hx hbad]; rfl

/-- INIT_ERROR(IO_ERROR) (R201, R206). -/
theorem State.raise_io_wrapped (s : State) :
    s.raise true .io = { s with result := 0x81#8, seq := Sequencer.idle } := rfl

/-- A direction that cannot be set ends INITIALIZE (R171, R172). -/
theorem exec_initBlock_setDirs_raise {s t : State} {e : Err}
    (h : runSeq [.setDirBusy, .setDirModeA, .setDirModeB] s.idle = .raised e t) :
    exec .initBlock s = .next (t.raise true e) :=
  exec_initBlock_raises (runSeq_append_raised (runSeq_append_raised (runSeq_append_raised h _) _) _)

/-- Settles O40: the first, second or third direction write is the one that raises. -/
theorem failedDirectionWrite : Obligations.FailedDirectionWrite := by
  unfold Obligations.FailedDirectionWrite
  intro s x rest hbad busy lineA lineB
  refine ⟨fun hanswers => ?first, fun a ha hanswers => ?second, fun a b ha hb hanswers => ?third⟩
  case first =>
    exact exec_initBlock_setDirs_raise (runSeq_cons_raised (runAction_setDirBusy_fails (s := s.idle) hanswers hbad) _)
  case second =>
    have hbusy := runAction_setDirBusy_ok (s := s.idle) hanswers ha
    rw [exec_initBlock_setDirs_raise ((runSeq_cons_done hbusy _).trans
      (runSeq_cons_raised (runAction_setDirModeA_fails rfl hbad) _))]
    simp [State.raise_io_wrapped, State.ended, State.performed, busy, lineA]
  case third =>
    have hbusy := runAction_setDirBusy_ok (s := s.idle) hanswers ha
    rw [exec_initBlock_setDirs_raise ((runSeq_cons_done hbusy _).trans ((runSeq_cons_done
      (runAction_setDirModeA_ok rfl hb) _).trans (runSeq_cons_raised (runAction_setDirModeB_fails rfl hbad) _)))]
    simp [State.raise_io_wrapped, State.ended, State.performed, busy, lineA, lineB]

/-! An error in a read. -/

/-- A run that ends well has ended its first part well. -/
theorem runSeq_append_eq_done {l₁ l₂ : List Action} {s u : State} (h : runSeq (l₁ ++ l₂) s = .done u) :
    ∃ t, runSeq l₁ s = .done t ∧ runSeq l₂ t = .done u := by
  rw [runSeq_append] at h
  cases hrun : runSeq l₁ s with
  | done t => rw [hrun] at h; exact ⟨t, rfl, h⟩
  | awaits | raised => rw [hrun] at h; cases h

/-- What only the last line writes, and not when it raises, a run that raises leaves. -/
theorem runSeq_raised_lastLine {α : Type} (v : State → α) {pre : List Action} {last : Action}
    (line : ∀ a ∈ pre, ∀ s, v (runAction a s).state = v s)
    (done_or_raised : ∀ s, (∃ x, runAction last s = .done x) ∨ ∃ e, runAction last s = .raised e s)
    {s t : State} {e : Err} (h : runSeq (pre ++ [last]) s = .raised e t) : v t = v s := by
  have hpre := runSeq_view v line s
  rw [runSeq_append] at h
  cases hrun : runSeq pre s with
  | awaits => rw [hrun] at h; cases h
  | raised e' t' => rw [hrun] at h hpre; cases h; exact hpre
  | done u =>
    rw [hrun] at h hpre
    obtain ⟨x, hx⟩ | ⟨e', he⟩ := done_or_raised u
    · rw [Run.andThen, runSeq_cons_done hx] at h; cases h
    · rw [Run.andThen, runSeq_cons_raised he] at h; cases h; exact hpre

/-- A SerialRead that ends well leaves something read. -/
theorem readResponse_done_held {s u : State} (h : readResponse s = .done u) : u.seq.held ≠ .nothing := by
  unfold readResponse at h
  dsimp only at h
  split at h
  · cases h
  · split_ifs at h
    split at h <;> cases h <;> simp

/-- Lines without a SerialRead leave what was read. -/
theorem runSeq_held {l : List Action} (hl : .receive ∉ l) {s u : State} (h : runSeq l s = .done u) :
    u.seq.held = s.seq.held := by
  have hview := runSeq_view (·.seq.held) (fun a ha => runAction_held a (ne_of_mem_of_not_mem ha hl)) s
  rwa [h] at hview

theorem runSeq_singleton (a : Action) (s : State) : runSeq [a] s = runAction a s := by
  rw [runSeq_cons]
  cases runAction a s <;> simp [Run.andThen]

theorem setModeLines_noReceive (p : Params) (m : Mode) : .receive ∉ setModeLines p m := by
  intro hmem
  obtain h | h | h | h | h | h | h := setModeLines_mem hmem <;> cases h

/-- Once a read has come to its last line, something has been read: six bytes or TIMEOUT (R161). -/
theorem readStart_held {p : Params} {command : List Byte} {s u : State} (h : runSeq (readStart p command) s = .done u) :
    u.seq.held ≠ .nothing := by
  rw [readStart_eq] at h
  obtain ⟨t, ht, hrest⟩ := runSeq_append_eq_done h
  obtain ⟨r, -, hreceive⟩ := runSeq_append_eq_done ht
  rw [runSeq_held (by simpa using setModeLines_noReceive p .normal) hrest]
  exact readResponse_done_held ((runSeq_singleton .receive r).symm.trans hreceive)

/-- A response that READ_VER takes up without an error has header C3, and its bytes 1 to 3 are kept (R140, R164). -/
theorem acceptVer_done {s u : State} (hheld : s.seq.held ≠ .nothing) (h : runAction .acceptVer s = .done u) :
    ∃ f, u.seq.held = .bytes f ∧ f.b0 = 0xC3#8 ∧ u.verOut = ⟨f.b1, f.b2, f.b3⟩ ∧ u.verCache = some u.verOut := by
  cases hread : s.seq.held with
  | nothing => exact absurd hread hheld
  | timeout => rw [runAction, acceptHeldVer, hread] at h; cases h
  | bytes f =>
    by_cases hversion : f.b0 = Config.hdrVersion
    · cases (runAction_acceptVer_ok hread (if_pos hversion)).symm.trans h
      exact ⟨f, hread, hversion, rfl, rfl⟩
    · cases (runAction_acceptVer_error hread (decodeVerFrame_other hversion)).symm.trans h

/-- INITIALIZE up to the response of its READ_VER (R171). -/
def throughReadStart (p : Params) : List Action :=
  [.setDirBusy, .setDirModeA, .setDirModeB] ++ setModeLines p .normal ++ readStart p (wire3 Config.cmdReadVersion)

theorem throughReadStart_noAccept (p : Params) : ∀ a ∈ throughReadStart p, NoAccept a := by
  simp only [throughReadStart, List.forall_mem_append]
  exact ⟨⟨by simp [NoAccept], fun a ha => (setModeLines_plain p .normal a ha).noAccept⟩,
    fun a ha => (readStart_plain p _ a ha).noAccept⟩

theorem readCfgLines_noAcceptVer (p : Params) : ∀ a ∈ readCfgLines p, a ≠ .acceptVer := by
  rw [readCfgLines_eq]
  exact List.forall_mem_append.2 ⟨fun a ha => (readStart_plain p _ a ha).noVer, by simp⟩

/-- Settles O42: what raises before or in the last line of a read has changed neither its output register nor its cache
(`runSeq_raised_lastLine`), and a READ_VER that ended well had six bytes with header C3 (`acceptVer_done`). -/
theorem initializeFailsInARead : Obligations.InitializeFailsInARead := by
  unfold Obligations.InitializeFailsInARead
  intro s throughVer
  have hlines : throughVer = throughReadStart s.params ++ [.acceptVer] := by
    simp [throughVer, throughReadStart, readVerLines_eq]
  have hnoAccept := throughReadStart_noAccept s.params
  have hnoCfg : ∀ a ∈ throughVer, a ≠ .acceptCfg := by
    rw [hlines]
    exact List.forall_mem_append.2 ⟨fun a ha => (hnoAccept a ha).left, by simp⟩
  have hcfg := runSeq_view State.cfgRead (fun a ha => runAction_cfgRead (hnoCfg a ha)) s.idle
  refine ⟨fun e t hraised => ?inVer, fun e u t hdone hraised => ?inCfg⟩
  case inVer =>
    rw [hraised] at hcfg
    have hver := runSeq_raised_lastLine (s := s.idle) State.verRead
      (fun a ha => runAction_verRead (hnoAccept a ha).right) acceptVer_done_or_raised (hlines ▸ hraised)
    exact ⟨exec_initBlock_raises (runSeq_append_raised hraised _), verRead_eq_iff.1 hver, cfgRead_eq_iff.1 hcfg⟩
  case inCfg =>
    rw [hdone] at hcfg
    have hstart := readStart_plain s.params (wire3 Config.cmdReadParams)
    have hcfgRead := runSeq_raised_lastLine State.cfgRead (fun a ha => runAction_cfgRead (hstart a ha).noCfg)
      acceptCfg_done_or_raised hraised
    have hverRead := runSeq_view State.verRead
      (fun a ha => runAction_verRead (readCfgLines_noAcceptVer s.params a ha)) u
    rw [hraised] at hverRead
    have hresponse : ∃ f, u.seq.held = .bytes f ∧ f.b0 = 0xC3#8 ∧ u.verOut = ⟨f.b1, f.b2, f.b3⟩ ∧
        u.verCache = some u.verOut := by
      obtain ⟨r, hstarted, haccept⟩ := runSeq_append_eq_done (hlines ▸ hdone)
      obtain ⟨_, -, hread⟩ := runSeq_append_eq_done hstarted
      exact acceptVer_done (readStart_held hread) ((runSeq_singleton _ r).symm.trans haccept)
    exact ⟨exec_initBlock_raises ((runSeq_append_done hdone _).trans hraised), hresponse, verRead_eq_iff.1 hverRead,
      cfgRead_eq_iff.1 (hcfgRead.trans hcfg)⟩

end Sys2Proof.Machine
end

section
/-! What every step keeps (O47, O51): RESULT is left or takes a code of the table, events are only added, and no parameter
changes. A line of pseudocode does so (`runAction_rel`), hence a step (`step_rel`). -/

namespace Sys2Proof.Machine

open Sys2Proof

/-- The codes that RESULT can be given (R201). -/
def resultCodes : List Byte :=
  [0x00#8, 0x01#8, 0x02#8, 0x03#8, 0x04#8, 0x05#8, 0x81#8, 0x82#8, 0x83#8, 0x84#8]

/-- A wrapped code is one of the four of INIT_ERROR, so it is not wrapped again (R206). -/
theorem resultCode_wrapped_mem (e : Err) : e.resultCode true ∈ [0x81#8, 0x82#8, 0x83#8, 0x84#8] := by
  cases e <;> simp [Err.resultCode, initCode, Err.code]

theorem resultCode_mem (wrap : Bool) (e : Err) : e.resultCode wrap ∈ resultCodes := by
  cases wrap with
  | true => exact List.mem_append_right [0x00#8, 0x01#8, 0x02#8, 0x03#8, 0x04#8, 0x05#8] (resultCode_wrapped_mem e)
  | false => cases e <;> simp [Err.resultCode, Err.code, resultCodes]

/-- RESULT is as it was, or one of the codes of the table. -/
def ResultLeftOrCode (s t : State) : Prop := t.result = s.result ∨ t.result ∈ resultCodes

theorem ResultLeftOrCode.of_same {s t : State} (h : t.result = s.result := by rfl) : ResultLeftOrCode s t := .inl h

theorem ResultLeftOrCode.of_ok {s t : State} (h : t.result = codeOk := by rfl) : ResultLeftOrCode s t :=
  .inr (by rw [h]; decide)

theorem ResultLeftOrCode.trans {s t u : State} (hst : ResultLeftOrCode s t) (htu : ResultLeftOrCode t u) :
    ResultLeftOrCode s u :=
  htu.elim (fun hleft => hst.imp hleft.trans (hleft ▸ ·)) .inr

theorem runAction_result (a : Action) (s : State) : ResultLeftOrCode s (runAction a s).state :=
  runAction_rel a ResultLeftOrCode (refl := fun _ => .of_same) (trans := fun _ _ _ => .trans)
    (ans := fun _ _ => .of_same) (rec := fun _ _ _ => .of_same) (hold := fun _ _ => .of_same)
    (d1 := fun _ _ => .of_same) (d2 := fun _ _ => .of_same) (d3 := fun _ _ => .of_same)
    (la := fun _ _ => .of_same) (lb := fun _ _ => .of_same) (fa := fun _ => .of_same) (fb := fun _ => .of_same)
    (md := fun _ _ => .of_same) (cl := fun _ => .of_same) (op := fun _ _ => .of_same) (lp := fun _ => .of_same)
    (res := fun _ => .of_ok) (ac := fun _ _ _ _ _ => .of_same) (av := fun _ _ _ => .of_same) s

/-- Settles O47: RESULT is written by the line that ends an operation and by the codec operations with OK, by a raise and
by the refusal of an illegal command. -/
theorem resultCodesAreLegal : Obligations.ResultCodesAreLegal := by
  unfold Obligations.ResultCodesAreLegal
  exact step_rel ResultLeftOrCode (refl := fun _ => .of_same) (trans := fun _ _ _ => .trans)
    (line := runAction_result) (seq := fun _ _ => .of_same) (raise := fun _ wrap e => .inr (resultCode_mem wrap e))
    (ill := fun _ => .inr (by decide : codeIllegalOp ∈ resultCodes))
    (inp := fun _ _ => .of_same) (cm := fun _ _ => .of_same) (fi := fun _ _ => .of_same) (ci := fun _ _ => .of_same)
    (sup := supply_rel ResultLeftOrCode (fun _ => .of_same) fun _ _ _ => .of_same) (rec := fun _ _ _ => .of_same)
    (dc := fun _ _ => .of_ok) (ec := fun _ _ => .of_ok) (dv := fun _ _ => .of_ok)

/-- Events are only added, and the parameters are the same. -/
def AddsEvents (s t : State) : Prop := (∃ ev, t.trace = s.trace ++ ev) ∧ t.params = s.params

theorem AddsEvents.of_same {s t : State} (htrace : t.trace = s.trace := by rfl)
    (hparams : t.params = s.params := by rfl) : AddsEvents s t :=
  ⟨⟨[], by simp [htrace]⟩, hparams⟩

theorem AddsEvents.trans {s t u : State} (hst : AddsEvents s t) (htu : AddsEvents t u) : AddsEvents s u := by
  obtain ⟨⟨ev, htrace⟩, hparams⟩ := hst
  obtain ⟨⟨ev', htrace'⟩, hparams'⟩ := htu
  exact ⟨⟨ev ++ ev', by rw [htrace', htrace, List.append_assoc]⟩, hparams'.trans hparams⟩

theorem AddsEvents.record (s : State) (p : Prim) (r : Reply) : AddsEvents s (s.record p r) := ⟨⟨_, rfl⟩, rfl⟩

theorem runAction_addsEvents (a : Action) (s : State) : AddsEvents s (runAction a s).state :=
  runAction_rel a AddsEvents (refl := fun _ => .of_same) (trans := fun _ _ _ => .trans)
    (ans := fun _ _ => .of_same) (rec := .record) (hold := fun _ _ => .of_same)
    (d1 := fun _ _ => .of_same) (d2 := fun _ _ => .of_same) (d3 := fun _ _ => .of_same)
    (la := fun _ _ => .of_same) (lb := fun _ _ => .of_same) (fa := fun _ => .of_same) (fb := fun _ => .of_same)
    (md := fun _ _ => .of_same) (cl := fun _ => .of_same) (op := fun _ _ => .of_same) (lp := fun _ => .of_same)
    (res := fun _ => .of_same) (ac := fun _ _ _ _ _ => .of_same) (av := fun _ _ _ => .of_same) s

/-- Settles O51: of the updates that a step is made of, only `State.record` changes the record of events, and none a
parameter. -/
theorem eventsAreKeptAndParametersFixed : Obligations.EventsAreKeptAndParametersFixed := by
  unfold Obligations.EventsAreKeptAndParametersFixed
  exact step_rel AddsEvents (refl := fun _ => .of_same) (trans := fun _ _ _ => .trans)
    (line := runAction_addsEvents) (seq := fun _ _ => .of_same) (raise := fun _ _ _ => .of_same)
    (ill := fun _ => .of_same)
    (inp := fun _ _ => .of_same) (cm := fun _ _ => .of_same) (fi := fun _ _ => .of_same) (ci := fun _ _ => .of_same)
    (sup := supply_rel AddsEvents (fun _ => .of_same) fun _ _ _ => .of_same) (rec := .record)
    (dc := fun _ _ => .of_same) (ec := fun _ _ => .of_same) (dv := fun _ _ => .of_same)

end Sys2Proof.Machine
end

section
/-! The errors of a composite operation: INITIALIZE reports each one wrapped (O39), and a restoring SET_MODE(Normal) that
raises in a read that timed out reports its own (O34). -/

namespace Sys2Proof.Machine

open Sys2Proof

/-! INITIALIZE. -/

/-- An operation that has ended reports OK, or the code of an error, wrapped or not as the operation does (R201, R202). -/
theorem runOp_ended_result {wrap : Bool} {l : List Action} {s : State}
    (hidle : (runOp wrap (l ++ [.resultOk]) s).IsIdle) :
    (runOp wrap (l ++ [.resultOk]) s).result = codeOk ∨
      ∃ e : Err, (runOp wrap (l ++ [.resultOk]) s).result = e.resultCode wrap := by
  cases hrun : runSeq l s.idle with
  | done t => rw [runOp_completes hrun]; exact .inl rfl
  | raised e t => rw [runOp_raises hrun]; exact .inr ⟨e, rfl⟩
  | awaits todo t =>
    rw [runOp, runSeq_append_awaits hrun] at hidle
    have htodo : todo ++ [.resultOk] = [] := congrArg Sequencer.todo hidle
    simp at htodo

/-- Settles O39, by `exec_initBlock_raises` and `runOp_ended_result`. -/
theorem initializeWrapsEveryError : Obligations.InitializeWrapsEveryError := by
  unfold Obligations.InitializeWrapsEveryError
  refine ⟨fun s t e hraised => exec_initBlock_raises hraised, fun s t hexec hidle => ?_⟩
  cases hexec
  obtain hok | ⟨e, herror⟩ := runOp_ended_result hidle
  · rw [hok]; exact List.mem_cons_self
  · rw [herror]; exact List.mem_cons_of_mem _ (resultCode_wrapped_mem e)

/-! What SET_MODE raises. -/

/-- A line of SET_MODE raises IoError, or TimeoutError(READY) in its wait (R101 to R106). -/
theorem runAction_setMode_raised {p : Params} {m : Mode} {a : Action} (ha : a ∈ setModeLines p m) {s t : State}
    {e : Err} (h : runAction a s = .raised e t) : e = .io ∨ e = .timeoutReady := by
  obtain rfl | rfl | rfl | rfl | rfl | rfl | rfl := setModeLines_mem ha <;> rw [runAction] at h
  · exact .inl (attempt_raised_io h)
  · exact .inl (attempt_raised_io h)
  · exact .inl (attempt_raised_io h)
  · cases h
  · exact pollFrom_raised_of _ _ _ _ _ _ h
  · split at h
    · exact .inl (attempt_raised_io h)
    · cases h
  · exact .inl (attempt_raised_io h)

theorem runSeq_setModeLines_raised {p : Params} {m : Mode} {s t : State} {e : Err}
    (h : runSeq (setModeLines p m) s = .raised e t) : e = .io ∨ e = .timeoutReady :=
  runSeq_raised_of (· ∈ setModeLines p m) (fun e => e = .io ∨ e = .timeoutReady)
    (fun _ ha _ _ _ => runAction_setMode_raised ha) _ s e t (fun _ ha => ha) h

/-- An error in the wait of a SET_MODE (R101 (d)). -/
theorem runSeq_setModeLines_wait_raises {s t : State} {m : Mode} {e : Err} {pre ws : List Answer}
    (hanswers : s.answers = pre ++ ws) (hlen : pre.length = lineCost s.params) (hok : ∀ a ∈ pre, a.fails = false)
    (h : pollFrom ws 0 0 (s.committed m (lineEvents s.params m) ws) = .raised e t) :
    runSeq (setModeLines s.params m) s = .raised e t :=
  runSeq_append_raised ((runSeq_append_done (runSeq_linesCommit m rfl hanswers hlen hok) _).trans
    ((runSeq_waitReadyLines _).trans h)) _

/-- An error in the ReconfigureSerial of a SET_MODE (R101, R103). -/
theorem runSeq_setModeLines_port_raises {s t : State} {m : Mode} {e : Err} {pre rest : List Answer}
    (fit : waitFits s.params s.params.readySamples = true) (hanswers : s.answers = pre ++ rest)
    (hlen : pre.length = lineCost s.params + s.params.readySamples) (hgood : ∀ a ∈ pre, a.Good)
    (h : runSeq (reconfigureSerial m)
      (s.committed m (lineEvents s.params m ++ highRun s.params s.params.readySamples) rest) = .raised e t) :
    runSeq (setModeLines s.params m) s = .raised e t :=
  (runSeq_append_done (runSeq_linesWait m rfl hanswers hlen hgood fit) _).trans h

/-! The restoring SET_MODE(Normal). -/

/-- With RESTORE_ON_READ_TIMEOUT a read that timed out raises what its SET_MODE(Normal) raises (R162, R208 (3)). -/
theorem ReadAnswers.restoreRaises {s t : State} {rest : List Answer} {e : Err} {command : List Byte}
    (h : ReadAnswers s none rest) (hrestore : s.params.restoreOnReadTimeout = true)
    (hraises : runSeq (setModeLines s.params .normal) (s.hasRead command none rest) = .raised e t) :
    runSeq (readStart s.params command) s = .raised e t := by
  have hgoesOn : runAction .giveUpEarly (s.hasRead command none rest) = .done _ :=
    runAction_giveUpEarly_goesOn fun _ => hrestore
  rw [readStart_eq, runSeq_append_done (h.run command), runSeq_cons_done hgoesOn]
  exact hraises

/-- Raising an error of SET_MODE writes RESULT alone: ERR_INFO stays (R202, R203, R205). -/
theorem State.raise_setMode {e : Err} (he : e = .io ∨ e = .timeoutReady) (t : State) :
    t.raise false e = { t with result := e.code, seq := Sequencer.idle } := by
  obtain rfl | rfl := he <;> rfl

/-- Settles O34: whatever the restoring SET_MODE raises ends the read (`ReadAnswers.restoreRaises`); of the two failures
written out, one is in its wait and one in its ReconfigureSerial. -/
theorem restoreFailureReplacesTimeout : Obligations.RestoreFailureReplacesTimeout := by
  unfold Obligations.RestoreFailureReplacesTimeout
  intro s pre rest w r fit hrestore hanswers hpre hgood hw hr hrx y hy ev timedOut
  have hread : ReadAnswers s.idle none rest := ⟨pre, w, r, by simpa using hanswers, ⟨fit, hpre, hgood⟩, hw, hr, hrx⟩
  obtain ⟨accept, hexec, -⟩ := exec_read hy
  have hraise : ∀ (e : Err) (t : State), runSeq (setModeLines s.params .normal) timedOut = .raised e t →
      (e = .io ∨ e = .timeoutReady) ∧ exec y.1 s = .next { t with result := e.code, seq := Sequencer.idle } := by
    intro e t h
    have he := runSeq_setModeLines_raised h
    refine ⟨he, ?_⟩
    rw [hexec, ← State.raise_setMode he]
    exact congrArg _ (runOp_raises (hread.restoreRaises hrestore h) false _)
  refine ⟨hraise, fun ln rest' x hrest hlen hok hbad => ?busy, fun lw rest' c x hrest hlen hgoodLw hc hbad => ?port⟩
  case busy =>
    have hpoll := pollFrom_fails hbad rest' 0 0 (timedOut.committed .normal (lineEvents s.params .normal) (x :: rest'))
    obtain ⟨-, hended⟩ := hraise _ _ (runSeq_setModeLines_wait_raises (s := timedOut)
      (by simpa using hrest) hlen hok hpoll)
    rw [hended]
    simp [State.ended, State.committed, State.inMode, Err.code, timedOut]
  case port =>
    have hclose := runAction_closePort_ok (s := timedOut.committed .normal
      (lineEvents s.params .normal ++ highRun s.params s.params.readySamples) (c :: x :: rest')) rfl rfl hc
    obtain ⟨-, hended⟩ := hraise _ _ (runSeq_setModeLines_port_raises (s := timedOut) fit
      (by simpa using hrest) hlen hgoodLw
      ((runSeq_cons_done hclose _).trans (runSeq_cons_raised (runAction_openPort_fails _ rfl hbad) _)))
    rw [hended]
    simp [State.ended, State.committed, State.inMode, Err.code, timedOut]

end Sys2Proof.Machine
end

section
/-! What each line performs and what it leaves alone, by its kind: whether it sends a frame, sets the port, drives the
mode-select lines, or waits. -/

namespace Sys2Proof.Machine

open Sys2Proof

/-- A SerialWrite (R14). -/
def Prim.sends : Prim → Bool
  | .serialWrite _ _ => true
  | _ => false

/-- A SerialOpen or SerialClose (R14). -/
def Prim.setsPort : Prim → Bool
  | .serialOpen _ _ => true
  | .serialClose _ => true
  | _ => false

/-- A line that performs a SerialWrite (R54, R163). -/
def Action.sends : Action → Bool
  | .send _ => true
  | .sendCfgIn => true
  | _ => false

/-- A line of ReconfigureSerial (R103). -/
def Action.setsPort : Action → Bool
  | .closePort => true
  | .openPort _ => true
  | _ => false

theorem Action.sends_iff {a : Action} : a.sends = true ↔ a = .sendCfgIn ∨ ∃ bytes, a = .send bytes := by
  cases a <;> simp [Action.sends]

theorem Prim.sends_iff {p : Prim} : p.sends = true ↔ ∃ port bytes, p = .serialWrite port bytes := by
  cases p <;> simp [Prim.sends]

/-- The mode-select lines and the port. -/
def State.linesAndPort (s : State) : Level × Level × Bool × Option SerialCfg :=
  (s.lineA, s.lineB, s.serialOpen, s.serialCfg)

/-- What shows outside the block: the events performed, the mode-select lines and the port. -/
def State.shown (s : State) : List Event × Level × Level × Bool × Option SerialCfg := (s.trace, s.linesAndPort)

/-- A response that is taken up shows on no line and on no wire (R120, R160). -/
theorem runAction_acceptCfg_silent (s : State) :
    (runAction .acceptCfg s).state.shown = s.shown := by
  simp only [runAction, acceptHeldCfg, acceptCfgResponse]
  (repeat' split) <;> rfl

/-- A response that is taken up shows on no line and on no wire (R120, R164). -/
theorem runAction_acceptVer_silent (s : State) :
    (runAction .acceptVer s).state.shown = s.shown := by
  simp only [runAction, acceptHeldVer, acceptVerResponse]
  (repeat' split) <;> rfl

/-! The events of a line. -/

/-- From s to t only events of the kind K were added. -/
def Adds (K : Event → Prop) (s t : State) : Prop := ∃ ev, t.trace = s.trace ++ ev ∧ ∀ e ∈ ev, K e

theorem Adds.of_same {K : Event → Prop} {s t : State} (h : t.trace = s.trace := by rfl) : Adds K s t :=
  ⟨[], by simp [h], by simp⟩

theorem Adds.of_one {K : Event → Prop} {s t : State} {e : Event} (he : K e) (h : t.trace = s.trace ++ [e] := by rfl) :
    Adds K s t :=
  ⟨[e], h, by simpa using he⟩

theorem Adds.trans {K : Event → Prop} {s t u : State} (hst : Adds K s t) (htu : Adds K t u) : Adds K s u := by
  obtain ⟨ev, htrace, hev⟩ := hst
  obtain ⟨ev', htrace', hev'⟩ := htu
  exact ⟨ev ++ ev', by rw [htrace', htrace, List.append_assoc], List.forall_mem_append.2 ⟨hev, hev'⟩⟩

theorem Adds.mono {K K' : Event → Prop} {s t : State} (h : Adds K s t) (hK : ∀ e, K e → K' e) : Adds K' s t := by
  obtain ⟨ev, htrace, hev⟩ := h
  exact ⟨ev, htrace, fun e he => hK e (hev e he)⟩

/-- The event `e` is one that the line `a` can perform; no line but the wait reads a LOW sample (R104). -/
structure Performs (a : Action) (e : Event) : Prop where
  sends : e.prim.sends = a.sends
  setsPort : e.prim.setsPort = a.setsPort
  level : (∃ n waited, a = .poll n waited) ∨ e.reply ≠ .level .low

/-- A primitive that answers ok or IoError is performed once or not at all. -/
theorem attempt_adds {K : Event → Prop} {p : Prim} (hp : ∀ r ∈ [Reply.ok, .ioError], K ⟨p, r⟩) (a : Action)
    {f g : State → State} (s : State) (hf : ∀ t, (f t).trace = t.trace := by exact fun _ => rfl)
    (hg : ∀ t, (g t).trace = t.trace := by exact fun _ => rfl) : Adds K s (attempt a p f g s).state := by
  obtain ⟨-, h⟩ | ⟨ans, rest, -, ⟨-, h⟩ | ⟨-, h⟩⟩ := attempt_cases a p f g s <;> rw [h]
  · exact .of_same
  · exact .of_one (hp .ioError (by simp)) (hg _)
  · exact .of_one (hp .ok (by simp)) (hf _)

theorem pollFrom_performs (m waited' : Nat) : ∀ (as : List Answer) (n waited : Nat) (s : State),
    Adds (Performs (.poll m waited')) s (pollFrom as n waited s).state := by
  have wait : ∀ (p : Prim) (r : Reply), p.sends = false → p.setsPort = false → Performs (.poll m waited') ⟨p, r⟩ :=
    fun _ _ hsends hport => ⟨hsends, hport, .inl ⟨m, waited', rfl⟩⟩
  intro as
  induction as with
  | nil => intro n waited s; exact .of_same
  | cons x rest ih =>
    intro n waited s
    have sampledDelayed : ∀ ms, ∀ e ∈ [sampled s.params x, delayed ms], Performs (.poll m waited') e := by
      simp only [List.mem_cons, List.not_mem_nil, or_false, forall_eq_or_imp, forall_eq]
      exact fun ms => ⟨wait _ _ rfl rfl, wait _ _ rfl rfl⟩
    rw [pollFrom_cons]
    split_ifs
    · exact .of_one (wait _ _ rfl rfl)
    · exact ⟨_, rfl, sampledDelayed 20⟩
    · exact .of_one (wait _ _ rfl rfl)
    · exact .trans ⟨_, rfl, sampledDelayed 10⟩ (ih _ _ _)

/-- A line performs only events of its own kind. -/
theorem runAction_performs (a : Action) (s : State) : Adds (Performs a) s (runAction a s).state := by
  have answered : ∀ p : Prim, p.sends = a.sends → p.setsPort = a.setsPort →
      ∀ r ∈ [Reply.ok, .ioError], Performs a ⟨p, r⟩ :=
    fun p hsends hport r hr => ⟨hsends, hport, .inr (by rintro rfl; simp at hr)⟩
  cases a with
  | setDirBusy | setDirModeA | setDirModeB | writeBoth | writeA | writeB | openPort | send | sendCfgIn =>
    simp only [runAction, sendBytes]
    exact attempt_adds (answered _ rfl rfl) _ s
  | closePort =>
    simp only [runAction]
    split
    · exact attempt_adds (answered _ rfl rfl) _ s
    · exact .of_same
  | poll n waited => exact pollFrom_performs n waited _ n waited s
  | receive =>
    simp only [runAction, readResponse]
    split
    · exact .of_same
    · split
      · exact .of_one (answered (.serialRead _ _ _) rfl rfl .ioError (by simp))
      · split <;> exact .of_one ⟨rfl, rfl, .inr (Reply.noConfusion ·)⟩
  | commitMode | resultOk => exact .of_same
  | giveUpEarly => simp only [runAction]; split <;> exact .of_same
  | acceptCfg => exact .of_same (congrArg Prod.fst (runAction_acceptCfg_silent s))
  | acceptVer => exact .of_same (congrArg Prod.fst (runAction_acceptVer_silent s))

/-! The lines and the port. -/

/-- A line that neither drives the lines nor sets the port leaves them alone. -/
theorem runAction_linesAndPort {a : Action} (hdrives : a.drivesLines = false) (hport : a.setsPort = false) (s : State) :
    (runAction a s).state.linesAndPort = s.linesAndPort := by
  cases a with
  | writeBoth | writeA | writeB => cases hdrives
  | closePort | openPort => cases hport
  | setDirBusy | setDirModeA | setDirModeB | send | sendCfgIn =>
    simp only [runAction, sendBytes]
    exact attempt_view State.linesAndPort _ s
  | poll n waited =>
    exact pollFrom_rel (fun s t => t.linesAndPort = s.linesAndPort) (fun _ _ _ hst htu => htu.trans hst)
      (fun _ _ => rfl) (fun _ _ _ => rfl) _ n waited s
  | receive =>
    exact readResponse_rel (fun s t => t.linesAndPort = s.linesAndPort) (fun _ => rfl)
      (fun _ _ _ hst htu => htu.trans hst) (fun _ _ => rfl) (fun _ _ _ => rfl) (fun _ _ => rfl) s
  | commitMode | resultOk => rfl
  | giveUpEarly => simp only [runAction]; split <;> rfl
  | acceptCfg => exact congrArg Prod.snd (runAction_acceptCfg_silent s)
  | acceptVer => exact congrArg Prod.snd (runAction_acceptVer_silent s)

/-- A line that sets no port leaves the port alone. -/
theorem runAction_port {a : Action} (hport : a.setsPort = false) (s : State) : SamePort s (runAction a s).state := by
  cases hdrives : a.drivesLines with
  | true =>
    have h := runAction_drives_modeAndPort hdrives s
    simp only [State.modeAndPort, Prod.mk.injEq] at h
    exact h.right
  | false =>
    have h := runAction_linesAndPort hdrives hport s
    simp only [State.linesAndPort, Prod.mk.injEq] at h
    exact h.right.right

/-- A line that drives no mode-select line leaves their levels. -/
theorem runAction_lines {a : Action} (hdrives : a.drivesLines = false) (s : State) :
    (runAction a s).state.lineA = s.lineA ∧ (runAction a s).state.lineB = s.lineB := by
  cases a with
  | closePort =>
    simp only [runAction]
    split
    · exact ⟨attempt_view State.lineA _ s, attempt_view State.lineB _ s⟩
    · exact ⟨rfl, rfl⟩
  | openPort => simp only [runAction]; exact ⟨attempt_view State.lineA _ s, attempt_view State.lineB _ s⟩
  | _ =>
    have h := runAction_linesAndPort hdrives rfl s
    simp only [State.linesAndPort, Prod.mk.injEq] at h
    exact ⟨h.left, h.right.left⟩

theorem runAction_params (a : Action) (s : State) : (runAction a s).state.params = s.params :=
  runAction_keeps a State.params s

/-! What an instruction is. -/

/-- Every instruction is a run of its lines, six bytes that arrive, a word that is put out or a codec operation. -/
theorem exec_forms {i : Instr} {s t : State} (h : exec i s = .next t) :
    (∃ wrap, t = runOp wrap (hostLines s.params i) s) ∨ (∃ f, t = s.deliver f) ∨ (∃ w, t = s.perform w) ∨
      Coded s t := by
  cases i with
  | setMode | waitReady | readCfg | writeCfg | readVer | resetModule | initBlock => cases h; exact .inl ⟨_, rfl⟩
  | wireParamsResponsePersist | wireParamsResponseVolatile | wireVersionResponse =>
    cases h; exact .inr (.inl ⟨_, rfl⟩)
  | modeNormal | modeWakeup | modePowerSaving | modeProgram | wireReadParams | wireReadVersion | wireReset
  | wireWritePersist | wireWriteVolatile => cases h; exact .inr (.inr (.inl ⟨_, rfl⟩))
  | decodeCfg => exact .inr (.inr (.inr (execDecodeCfg_coded h)))
  | decodeVer => exact .inr (.inr (.inr (execDecodeVer_coded h)))
  | encodeCfg => cases h; exact .inr (.inr (.inr (.inl ⟨_, _, _, rfl⟩)))

/-- A host operation that has lines is a run of them (R20). -/
theorem exec_hostLines {i : Instr} {s t : State} (hlines : hostLines s.params i ≠ []) (h : exec i s = .next t) :
    ∃ wrap, t = runOp wrap (hostLines s.params i) s := by
  cases i with
  | setMode | waitReady | readCfg | writeCfg | readVer | resetModule | initBlock => cases h; exact ⟨_, rfl⟩
  | _ => exact absurd rfl hlines

end Sys2Proof.Machine
end

section
/-! Frames are sent only in Program (O53, O54). `Sends b s b' t` speaks of what is known of the port along a piece of an
operation: if what is known before it is b and after it b', then its SerialWrites find the port open in Program. Every
line has such a b' with which the lines left after it send only in Program too, hence every run and every step. -/

namespace Sys2Proof.Machine

open Sys2Proof

/-! What is known of the port. -/

/-- To know more of the port does no harm. -/
theorem sendsInProgram_mono {p : Params} {b b' : Bool} (hb : b = true → b' = true) {ev : List Event}
    (h : sendsInProgram p b ev = true) : sendsInProgram p b' ev = true := by
  induction ev with
  | nil => rfl
  | cons e es ih =>
    unfold sendsInProgram at h ⊢
    cases hp : e.prim <;> simp only [hp, Bool.and_eq_true] at h ⊢
    case serialOpen | serialClose => exact h
    case serialWrite => exact ⟨hb h.left, ih h.right⟩
    all_goals exact ih h

theorem sendsInProgram_of_false {p : Params} {b : Bool} {ev : List Event} (h : sendsInProgram p false ev = true) :
    sendsInProgram p b ev = true :=
  sendsInProgram_mono (b := false) nofun h

theorem sendsInProgram_open (p : Params) (b : Bool) (port : Nat) (cfg : SerialCfg) (r : Reply) (ev : List Event) :
    sendsInProgram p b (⟨.serialOpen port cfg, r⟩ :: ev) =
      sendsInProgram p (decide (r = .ok ∧ cfg = portCfg p .program)) ev := rfl

theorem sendsInProgram_write (p : Params) (port : Nat) (bytes : List Byte) (r : Reply) (ev : List Event) :
    sendsInProgram p true (⟨.serialWrite port bytes, r⟩ :: ev) = sendsInProgram p true ev := rfl

theorem sendsAfterProgram_mono {b b' : Bool} (hb : b = true → b' = true) {l : List Action}
    (h : sendsAfterProgram b l = true) : sendsAfterProgram b' l = true := by
  induction l with
  | nil => rfl
  | cons a l ih =>
    cases a <;> simp only [sendsAfterProgram, Bool.and_eq_true] at h ⊢
    case openPort | closePort => exact h
    case send | sendCfgIn => exact ⟨hb h.left, ih h.right⟩
    all_goals exact ih h

/-- Events that neither send nor set the port. -/
theorem sendsInProgram_append_of_quiet {p : Params} {b : Bool} {ev : List Event}
    (h : ∀ e ∈ ev, e.prim.sends = false ∧ e.prim.setsPort = false) (ev' : List Event) :
    sendsInProgram p b (ev ++ ev') = sendsInProgram p b ev' := by
  induction ev with
  | nil => rfl
  | cons e es ih =>
    obtain ⟨⟨hsends, hport⟩, hes⟩ := List.forall_mem_cons.1 h
    rw [List.cons_append, ← ih hes, sendsInProgram]
    cases hp : e.prim with
    | serialWrite => rw [hp] at hsends; cases hsends
    | serialOpen | serialClose => rw [hp] at hport; cases hport
    | _ => rfl

/-- A line that neither sends nor sets the port. -/
theorem sendsAfterProgram_cons_of_quiet {a : Action} (hsends : a.sends = false) (hport : a.setsPort = false) (b : Bool)
    (l : List Action) : sendsAfterProgram b (a :: l) = sendsAfterProgram b l := by
  cases a with
  | send | sendCfgIn => cases hsends
  | openPort | closePort => cases hport
  | _ => rfl

/-- From s to t every SerialWrite finds the port open in Program, if it is so before where b says so; and b' says so
only where the port is left so. -/
structure Sends (b : Bool) (s : State) (b' : Bool) (t : State) : Prop where
  params : t.params = s.params
  port : (b = true → s.portInProgram = true) → b' = true → t.portInProgram = true
  events : ∃ ev, t.trace = s.trace ++ ev ∧
    ∀ ev', sendsInProgram s.params b' ev' = true → sendsInProgram s.params b (ev ++ ev') = true

/-- An update that performs nothing and leaves the port. -/
theorem Sends.of_same {b : Bool} {s t : State} (params : t.params = s.params := by rfl)
    (port : t.portInProgram = s.portInProgram := by rfl) (trace : t.trace = s.trace := by rfl) : Sends b s b t :=
  ⟨params, fun hb hb' => port ▸ hb hb', [], by simp [trace], fun _ h => h⟩

theorem Sends.trans {b b' b'' : Bool} {s t u : State} (hst : Sends b s b' t) (htu : Sends b' t b'' u) :
    Sends b s b'' u := by
  obtain ⟨hparams, hport, ev, htrace, hev⟩ := hst
  obtain ⟨hparams', hport', ev', htrace', hev'⟩ := htu
  refine ⟨hparams'.trans hparams, fun hb => hport' (hport hb), ev ++ ev', by rw [htrace', htrace, List.append_assoc],
    fun ev'' h => ?_⟩
  rw [List.append_assoc]
  exact hev _ (hparams ▸ hev' ev'' (hparams.symm ▸ h))

/-- An event that is performed, and what it makes known of the port. -/
theorem Sends.of_event {b b' : Bool} {s t : State} {e : Event} (params : t.params = s.params)
    (port : (b = true → s.portInProgram = true) → b' = true → t.portInProgram = true)
    (trace : t.trace = s.trace ++ [e])
    (event : ∀ ev', sendsInProgram s.params b' ev' = true → sendsInProgram s.params b (e :: ev') = true) :
    Sends b s b' t :=
  ⟨params, port, [e], trace, event⟩

/-! Lines. -/

/-- The lines left after a run that is followed by the lines `rest`. -/
def Run.left (rest : List Action) : Run → List Action
  | .done _ => rest
  | .awaits todo _ => todo ++ rest
  | .raised _ _ => []

/-- From s to t, with the lines `l` left, frames are and will be sent only in Program. -/
def SendsThen (b : Bool) (s t : State) (l : List Action) : Prop :=
  ∃ b', Sends b s b' t ∧ sendsAfterProgram b' l = true

/-- A primitive that answers ok or IoError. -/
theorem attempt_sendsThen {b b' : Bool} {a : Action} {p : Prim} {f g : State → State} {rest : List Action} {s : State}
    (h : sendsAfterProgram b (a :: rest) = true) (hrest : sendsAfterProgram b' rest = true)
    (ok : ∀ as, Sends b s b' (f ((s.withAnswers as).record p .ok)))
    (fails : ∀ as, Sends b s false (g ((s.withAnswers as).record p .ioError))) :
    SendsThen b s (attempt a p f g s).state ((attempt a p f g s).left rest) := by
  obtain ⟨-, hrun⟩ | ⟨ans, as, -, ⟨-, hrun⟩ | ⟨-, hrun⟩⟩ := attempt_cases a p f g s <;> rw [hrun]
  · exact ⟨b, .of_same, h⟩
  · exact ⟨false, fails as, rfl⟩
  · exact ⟨b', ok as, hrest⟩

/-- A SerialWrite with the port known to be in Program. -/
theorem sendBytes_sendsThen {b : Bool} {a : Action} {rest : List Action} {s : State}
    (h : sendsAfterProgram b (a :: rest) = true) (hb : b = true) (hrest : sendsAfterProgram b rest = true)
    (bytes : List Byte) :
    SendsThen b s (sendBytes a bytes s).state ((sendBytes a bytes s).left rest) := by
  subst hb
  exact attempt_sendsThen h hrest (fun _ => .of_event rfl id rfl fun _ hev => hev)
    (fun _ => .of_event (b := true) (b' := false) rfl nofun rfl fun ev' hev =>
      (sendsInProgram_write ..).trans (sendsInProgram_of_false hev))

/-- A SerialOpen makes the settings of its mode known; where it fails, nothing (R103). -/
theorem openPort_sendsThen {b : Bool} {m : Mode} {rest : List Action} (s : State)
    (h : sendsAfterProgram b (.openPort m :: rest) = true) :
    SendsThen b s (runAction (.openPort m) s).state ((runAction (.openPort m) s).left rest) := by
  have hcfg : m = .program → serialCfgOf s.params m = portCfg s.params .program := by
    rintro rfl
    exact serialCfgOf_eq _ _
  rw [runAction]
  refine attempt_sendsThen (b' := decide (m = .program)) h h
    (fun _ => .of_event rfl (fun _ hm => ?_) rfl fun _ hev => ?_)
    (fun _ => .of_event rfl nofun rfl fun _ hev => by simpa [sendsInProgram_open] using hev)
  · exact decide_eq_true (congrArg some (hcfg (of_decide_eq_true hm)))
  · rw [sendsInProgram_open]
    exact sendsInProgram_mono (fun hm => by simpa using hcfg (of_decide_eq_true hm)) hev

/-- A SerialClose makes nothing known, and neither does one that is skipped (R103). -/
theorem closePort_sendsThen {b : Bool} {rest : List Action} (s : State)
    (h : sendsAfterProgram b (.closePort :: rest) = true) :
    SendsThen b s (runAction .closePort s).state ((runAction .closePort s).left rest) := by
  rw [runAction]
  split
  · exact attempt_sendsThen h (b' := false) h (fun _ => .of_event rfl nofun rfl fun _ hev => hev)
      (fun _ => .of_event rfl nofun rfl fun _ hev => hev)
  · exact ⟨false, ⟨rfl, nofun, [], by simp, fun _ => sendsInProgram_of_false⟩, h⟩

theorem pollFrom_awaits : ∀ {as : List Answer} {n waited : Nat} {s t : State} {todo : List Action},
    pollFrom as n waited s = .awaits todo t → ∃ n' waited', todo = [.poll n' waited'] := by
  intro as
  induction as with
  | nil => intro n waited s t todo h; cases h; exact ⟨_, _, rfl⟩
  | cons x rest ih =>
    intro n waited s t todo h
    rw [pollFrom_cons] at h
    split_ifs at h
    exact ih h

/-- A line that waits for an answer is what is left of it, but for the wait's locals (R104). -/
theorem runAction_awaits {a : Action} {s t : State} {todo : List Action} (h : runAction a s = .awaits todo t) :
    todo = [a] ∨ ∃ n waited, todo = [.poll n waited] := by
  cases a with
  | poll n waited => exact .inr (pollFrom_awaits h)
  | setDirBusy | setDirModeA | setDirModeB | writeBoth | writeA | writeB | openPort | send | sendCfgIn =>
    rw [runAction] at h
    exact .inl (attempt_awaits_of h).left
  | closePort =>
    rw [runAction] at h
    split at h
    · exact .inl (attempt_awaits_of h).left
    · cases h
  | receive =>
    simp only [runAction, readResponse] at h
    (repeat' split at h) <;> cases h
    exact .inl rfl
  | commitMode | resultOk => cases h
  | giveUpEarly => rw [runAction] at h; split at h <;> cases h
  | acceptCfg => obtain ⟨_, hrun⟩ | ⟨_, hrun⟩ := acceptCfg_done_or_raised s <;> rw [hrun] at h <;> cases h
  | acceptVer => obtain ⟨_, hrun⟩ | ⟨_, hrun⟩ := acceptVer_done_or_raised s <;> rw [hrun] at h <;> cases h

/-- A line that neither sends nor sets the port leaves what is known of it. -/
theorem runAction_quiet_sendsThen {b : Bool} {a : Action} {rest : List Action} (hsends : a.sends = false)
    (hport : a.setsPort = false) (h : sendsAfterProgram b (a :: rest) = true) (s : State) :
    SendsThen b s (runAction a s).state ((runAction a s).left rest) := by
  have hrest : sendsAfterProgram b rest = true := sendsAfterProgram_cons_of_quiet hsends hport b rest ▸ h
  obtain ⟨ev, htrace, hev⟩ := runAction_performs a s
  obtain ⟨hopen, hcfg⟩ := runAction_port hport s
  have hquiet : ∀ e ∈ ev, e.prim.sends = false ∧ e.prim.setsPort = false := fun e he =>
    ⟨(hev e he).sends.trans hsends, (hev e he).setsPort.trans hport⟩
  refine ⟨b, ⟨runAction_params a s, fun hb hb' => ?port, ev, htrace, fun ev' hev' => ?events⟩, ?left⟩
  case port =>
    rw [State.portInProgram, hopen, hcfg, runAction_params]
    exact hb hb'
  case events => rw [sendsInProgram_append_of_quiet hquiet]; exact hev'
  case left =>
    cases hrun : runAction a s with
    | done t => exact hrest
    | raised e t => rfl
    | awaits todo t =>
      obtain rfl | ⟨n, waited, rfl⟩ := runAction_awaits hrun
      · exact h
      · exact hrest

/-- Every line sends only in Program, and the lines after it do. -/
theorem runAction_sendsThen {b : Bool} {a : Action} {rest : List Action} (h : sendsAfterProgram b (a :: rest) = true)
    (s : State) : SendsThen b s (runAction a s).state ((runAction a s).left rest) := by
  cases hport : a.setsPort with
  | true =>
    cases a with
    | closePort => exact closePort_sendsThen s h
    | openPort => exact openPort_sendsThen s h
    | _ => cases hport
  | false =>
    cases hsends : a.sends with
    | true =>
      cases a with
      | send | sendCfgIn =>
        obtain ⟨hb, hrest⟩ := Bool.and_eq_true_iff.1 h
        exact sendBytes_sendsThen h hb hrest _
      | _ => cases hsends
    | false => exact runAction_quiet_sendsThen hsends hport h s

/-- Every run sends only in Program, if the lines it is made of and those after it do. -/
theorem runSeq_sendsThen {rest : List Action} : ∀ {b : Bool} {l : List Action} (s : State),
    sendsAfterProgram b (l ++ rest) = true → SendsThen b s (runSeq l s).state ((runSeq l s).left rest) := by
  intro b l
  induction l generalizing b with
  | nil => exact fun s h => ⟨b, .of_same, h⟩
  | cons a l ih =>
    intro s h
    obtain ⟨b', hst, hleft⟩ := runAction_sendsThen h s
    rw [runSeq_cons]
    cases hrun : runAction a s with
    | done t =>
      rw [hrun] at hst hleft
      obtain ⟨b'', htu, hleft'⟩ := ih t hleft
      exact ⟨b'', hst.trans htu, hleft'⟩
    | awaits todo t =>
      rw [hrun] at hst hleft
      exact ⟨b', hst, by simpa [Run.andThen, Run.left] using hleft⟩
    | raised e t =>
      rw [hrun] at hst
      exact ⟨b', hst, rfl⟩

/-! Operations, instructions and steps. -/

/-- From s to t, and with what is left of the operation in progress in t, frames are sent only in Program. -/
abbrev SendsOn (b : Bool) (s t : State) : Prop := SendsThen b s t t.seq.todo

/-- A run of lines, begun after `s`, leaves the block so. -/
theorem SendsOn.conclude {b : Bool} {s u : State} {l rest : List Action} {r : Run} (hu : Sends b s b u)
    (h : sendsAfterProgram b (l ++ rest) = true) (hstate : r.state = (runSeq l u).state)
    (hleft : r.left [] = (runSeq l u).left rest) (wrap : Bool) : SendsOn b s (conclude wrap r) := by
  obtain ⟨b', hrun, hsends⟩ := runSeq_sendsThen u h
  rw [← hstate] at hrun
  rw [← hleft] at hsends
  refine ⟨b', hu.trans (hrun.trans ?_), ?_⟩
  · cases r <;> exact .of_same
  · cases r with
    | awaits todo t => simpa [Run.left, Machine.conclude] using hsends
    | _ => rfl

theorem SendsOn.runOp {b : Bool} {l : List Action} (h : sendsAfterProgram b l = true) (wrap : Bool) (s : State) :
    SendsOn b s (runOp wrap l s) :=
  .conclude (u := s.idle) .of_same (by simpa using h) rfl rfl wrap

theorem supply_sends (b : Bool) (s : State) : Sends b s b s.supply :=
  supply_rel (Sends b · b ·) (fun _ => .of_same) (fun _ _ _ => .of_same) s

theorem SendsOn.resume {b : Bool} {s : State} (h : sendsAfterProgram b s.seq.todo = true) : SendsOn b s s.resume :=
  .conclude (supply_sends b s) (by simpa using h) rfl rfl _

theorem SendsOn.deliver {b : Bool} {s : State} (h : sendsAfterProgram b s.seq.todo = true) (f : Frame6) :
    SendsOn b s (s.deliver f) := by
  by_cases hreads : ∃ todo, s.seq.todo = .receive :: todo
  · obtain ⟨todo, htodo⟩ := hreads
    have htail : sendsAfterProgram b (todo ++ []) = true := by simpa [htodo, sendsAfterProgram] using h
    rw [deliver_reading htodo]
    have hread : Sends b s b
        ((s.record (.serialRead s.params.port 6 Config.readTimeoutMs) (.bytes f)).hold (.bytes f)) :=
      .of_event rfl id rfl fun _ hev => hev
    exact .conclude (rest := []) hread htail rfl rfl _
  · rw [deliver_not_reading (not_exists.1 hreads)]
    exact ⟨b, .of_same, h⟩

theorem Run.left_standsBefore (rest : List Action) (r : Run) : (r.standsBefore rest).left [] = r.left rest := by
  cases r <;> simp [Run.standsBefore, Run.left]

theorem SendsOn.perform {b : Bool} {s : State} (h : sendsAfterProgram b s.seq.todo = true) (w : FetchWord) :
    SendsOn b s (s.perform w) := by
  by_cases hpart : s.linesOf w = 0
  · rw [State.perform, hpart]
    exact ⟨b, .of_same, h⟩
  · rw [perform_part hpart]
    exact .conclude (supply_sends b s) (by rwa [List.take_append_drop]) (Run.state_standsBefore _ _)
      (Run.left_standsBefore _ _) _

/-- A SET_MODE(Program) makes Program's settings known, another SET_MODE makes nothing known (R101, R103). -/
theorem sendsAfterProgram_setModeLines (b : Bool) (p : Params) (m : Mode) (l : List Action) :
    sendsAfterProgram b (setModeLines p m ++ l) = sendsAfterProgram (decide (m = .program)) l := by
  unfold setModeLines writeModeLines
  split <;> rfl

/-- Every host operation sends only after its SET_MODE(Program) (R170 (1), R240). -/
theorem hostLines_sendsAfterProgram (p : Params) (i : Instr) : sendsAfterProgram false (hostLines p i) = true := by
  cases i with
  | setMode | waitReady | readCfg | writeCfg | readVer | resetModule | initBlock =>
    simp [hostLines, waitReadyLines, readCfgLines, readVerLines, writeCfgLines, resetModuleLines, initLines,
      sendsAfterProgram_setModeLines, sendsAfterProgram]
  | _ => rfl

/-- Every instruction sends only in Program, if what is left of the operation in progress does. -/
theorem exec_sendsOn {b : Bool} {i : Instr} {s t : State} (h : sendsAfterProgram b s.seq.todo = true)
    (hexec : exec i s = .next t) : SendsOn b s t := by
  obtain ⟨wrap, rfl⟩ | ⟨f, rfl⟩ | ⟨w, rfl⟩ | ⟨_, _, _, rfl⟩ | ⟨_, rfl⟩ := exec_forms hexec
  · exact .runOp (sendsAfterProgram_mono (b := false) nofun (hostLines_sendsAfterProgram s.params i)) wrap s
  · exact .deliver h f
  · exact .perform h w
  · exact ⟨b, .of_same, rfl⟩
  · exact ⟨b, .of_same, rfl⟩

/-- Taking a move of the host up performs nothing, and leaves the port and the operation in progress. -/
theorem fetch_word_sends (b : Bool) {s u : State} {w : FetchWord} (h : s.fetch = .word w u) :
    Sends b s b u ∧ u.seq = s.seq := by
  obtain ⟨_, _, ⟨_, ⟨_, _, rfl⟩ | ⟨_, rfl⟩⟩ | ⟨_, _, _, _, _, rfl⟩⟩ := fetch_word_cases h <;> exact ⟨.of_same, rfl⟩

/-- Every step sends only in Program, if what is left of the operation in progress does. -/
theorem step_sendsOn {b : Bool} {s t : State} (h : sendsAfterProgram b s.seq.todo = true) (hstep : step s = .next t) :
    SendsOn b s t := by
  obtain rfl | rfl | hload | ⟨w, u, hword, hdone⟩ := step_cases hstep
  · exact .resume h
  · exact ⟨b, .of_same, h⟩
  · obtain ⟨_, _, _, _, rfl⟩ | ⟨_, _, _, _, rfl⟩ := fetch_loaded_cases hload <;> exact ⟨b, .of_same, h⟩
  · obtain ⟨hsu, hseq⟩ := fetch_word_sends b hword
    rw [← hseq] at h
    obtain ⟨b', hut, hleft⟩ : SendsOn b u t := by
      obtain ⟨i, _, hexec⟩ | ⟨c, _, rfl⟩ | ⟨f, _, rfl⟩ := hdone
      · exact exec_sendsOn h hexec
      · exact ⟨b, .of_same, h⟩
      · exact .deliver h f
    exact ⟨b', hsu.trans hut, hleft⟩

/-- The events from s to t, when nothing is asked of those after them. -/
theorem Sends.sendsInProgram {b b' : Bool} {s t : State} (h : Sends b s b' t) :
    ∃ ev, t.trace = s.trace ++ ev ∧ sendsInProgram s.params b ev = true := by
  obtain ⟨-, -, ev, htrace, hev⟩ := h
  exact ⟨ev, htrace, by simpa using hev [] rfl⟩

/-- Settles O54, by `step_sendsOn` with what the state itself says of the port. -/
theorem everyStepSendsOnlyInProgram : Obligations.EveryStepSendsOnlyInProgram := by
  unfold Obligations.EveryStepSendsOnlyInProgram
  intro s t hs hstep
  obtain ⟨b', hsends, hleft⟩ := step_sendsOn hs hstep
  exact ⟨sendsAfterProgram_mono (hsends.port id) hleft, hsends.sendsInProgram⟩

/-- Settles O53: as the operation begins nothing is known of the port, and its lines need nothing known
(`SendsOn.runOp`, `hostLines_sendsAfterProgram`). -/
theorem framesAreSentOnlyInProgram : Obligations.FramesAreSentOnlyInProgram := by
  unfold Obligations.FramesAreSentOnlyInProgram
  intro i hi s t hexec
  have hlines := hostLines_sendsAfterProgram s.params i
  have hhost : hostLines s.params i ≠ [] := by
    simp only [List.mem_cons, List.not_mem_nil, or_false] at hi
    obtain rfl | rfl | rfl | rfl | rfl := hi <;> simp [hostLines]
  obtain ⟨wrap, rfl⟩ := exec_hostLines hhost hexec
  obtain ⟨b', hsends, -⟩ := SendsOn.runOp hlines wrap s
  exact hsends.sendsInProgram

end Sys2Proof.Machine
end

section
/-! The lines are driven and frames are sent only inside operations (O56): what a step shows on them is by lines of the
operation in progress, or of the command that it takes up (`step_outward`). -/

namespace Sys2Proof.Machine

open Sys2Proof

/-- From s to t the mode-select lines change and frames are sent only by such lines in `l`. -/
structure OutwardBy (l : List Action) (s t : State) : Prop where
  lines : t.lineA ≠ s.lineA ∨ t.lineB ≠ s.lineB → ∃ a ∈ l, a.drivesLines = true
  writes : Adds (fun e => e.prim.sends = true → ∃ a ∈ l, a.sends = true) s t

theorem OutwardBy.of_same {l : List Action} {s t : State} (lineA : t.lineA = s.lineA := by rfl)
    (lineB : t.lineB = s.lineB := by rfl) (trace : t.trace = s.trace := by rfl) : OutwardBy l s t :=
  ⟨fun h => h.elim (absurd lineA) (absurd lineB), .of_same trace⟩

theorem OutwardBy.trans {l : List Action} {s t u : State} (hst : OutwardBy l s t) (htu : OutwardBy l t u) :
    OutwardBy l s u where
  lines h := by
    by_contra hnone
    obtain ⟨hA, hB⟩ := not_or.1 (mt hst.lines hnone)
    obtain ⟨hA', hB'⟩ := not_or.1 (mt htu.lines hnone)
    exact h.elim (· ((not_not.1 hA').trans (not_not.1 hA))) (· ((not_not.1 hB').trans (not_not.1 hB)))
  writes := hst.writes.trans htu.writes

theorem OutwardBy.mono {l l' : List Action} {s t : State} (h : OutwardBy l s t) (hl : l ⊆ l') : OutwardBy l' s t where
  lines hne := (h.lines hne).imp fun _ ha => ⟨hl ha.left, ha.right⟩
  writes := h.writes.mono fun _ he hsends => (he hsends).imp fun _ ha => ⟨hl ha.left, ha.right⟩

/-- A line shows only what it is a line for. -/
theorem runAction_outward {a : Action} {l : List Action} (ha : a ∈ l) (s : State) :
    OutwardBy l s (runAction a s).state where
  lines h := by
    refine ⟨a, ha, ?_⟩
    by_contra hdrives
    obtain ⟨hA, hB⟩ := runAction_lines (eq_false_of_ne_true hdrives) s
    exact h.elim (· hA) (· hB)
  writes := (runAction_performs a s).mono fun _ he hsends => ⟨a, ha, he.sends ▸ hsends⟩

/-- A run of lines, begun after `s`, shows what its lines show. -/
theorem OutwardBy.conclude {l : List Action} {s u : State} {r : Run} (hu : OutwardBy l s u)
    (hstate : r.state = (runSeq l u).state) (wrap : Bool) : OutwardBy l s (conclude wrap r) := by
  have hrun : OutwardBy l u r.state := hstate ▸
    runSeq_rel (· ∈ l) (OutwardBy l) (fun _ => .of_same) (fun _ _ _ => .trans)
      (fun _ ha s => runAction_outward ha s) l u (fun _ ha => ha)
  refine hu.trans (hrun.trans ?_)
  cases r <;> exact .of_same

theorem supply_outward (l : List Action) (s : State) : OutwardBy l s s.supply :=
  supply_rel (OutwardBy l) (fun _ => .of_same) (fun _ _ _ => .of_same) s

theorem deliver_outward (s : State) (f : Frame6) : OutwardBy s.seq.todo s (s.deliver f) := by
  by_cases hreads : ∃ todo, s.seq.todo = .receive :: todo
  · obtain ⟨todo, htodo⟩ := hreads
    have hread : OutwardBy todo s
        ((s.record (.serialRead s.params.port 6 Config.readTimeoutMs) (.bytes f)).hold (.bytes f)) :=
      ⟨fun h => h.elim (absurd rfl) (absurd rfl), .of_one (e := ⟨.serialRead _ _ _, _⟩) nofun⟩
    rw [deliver_reading htodo, htodo]
    exact (hread.conclude rfl _).mono (List.subset_cons_self _ _)
  · rw [deliver_not_reading (not_exists.1 hreads)]
    exact .of_same

theorem perform_outward (s : State) (w : FetchWord) : OutwardBy s.seq.todo s (s.perform w) := by
  by_cases hpart : s.linesOf w = 0
  · rw [State.perform, hpart]
    exact .of_same
  · rw [perform_part hpart]
    exact ((supply_outward _ s).conclude (Run.state_standsBefore _ _) _).mono (List.take_subset _ _)

/-- An instruction shows what its own lines show, or those of the operation in progress. -/
theorem exec_outward {i : Instr} {s t : State} (h : exec i s = .next t) :
    OutwardBy (hostLines s.params i) s t ∨ OutwardBy s.seq.todo s t := by
  obtain ⟨wrap, rfl⟩ | ⟨f, rfl⟩ | ⟨w, rfl⟩ | ⟨_, _, _, rfl⟩ | ⟨_, rfl⟩ := exec_forms h
  · exact .inl (OutwardBy.conclude (u := s.idle) .of_same rfl wrap)
  · exact .inr (deliver_outward s f)
  · exact .inr (perform_outward s w)
  · exact .inr .of_same
  · exact .inr .of_same

/-- A step shows what the lines of the operation in progress show, or those of the command that it takes up. -/
theorem step_outward {s t : State} (h : step s = .next t) :
    OutwardBy s.seq.todo s t ∨ ∃ i p, RunsCommand s i ∧ OutwardBy (hostLines p i) s t := by
  obtain rfl | rfl | hload | ⟨w, u, hword, hdone⟩ := step_cases h
  · exact .inl ((supply_outward _ s).conclude rfl _)
  · exact .inl .of_same
  · obtain ⟨_, _, _, _, rfl⟩ | ⟨_, _, _, _, rfl⟩ := fetch_loaded_cases hload <;> exact .inl .of_same
  · have taken : ∀ {l}, OutwardBy l s u := by
      obtain ⟨_, _, ⟨_, ⟨_, _, rfl⟩ | ⟨_, rfl⟩⟩ | ⟨_, _, _, _, _, rfl⟩⟩ := fetch_word_cases hword <;> exact .of_same
    obtain ⟨_, _, hseq, hcommand⟩ := fetch_word_caches hword
    rw [← hseq]
    obtain ⟨i, hd, hexec⟩ | ⟨c, _, rfl⟩ | ⟨f, _, rfl⟩ := hdone
    · obtain hlines | htodo := exec_outward hexec
      · obtain hw | hruns := hcommand
        · rw [hostLines_of_not_cmd u.params hd hw] at hlines
          exact .inl (taken.trans (hlines.mono (List.nil_subset _)))
        · exact .inr ⟨i, u.params, hruns i hd, taken.trans hlines⟩
      · exact .inl (taken.trans htodo)
    · exact .inl (taken.trans .of_same)
    · exact .inl (taken.trans (deliver_outward u f))

/-! Which commands have such lines. -/

theorem drives_mem_hostLines {p : Params} {i : Instr} (h : ∃ a ∈ hostLines p i, a.drivesLines = true) :
    i ∈ [.setMode .normal, .setMode .wakeup, .setMode .powerSaving, .setMode .program, .readCfg, .writeCfg, .readVer,
      .resetModule, .initBlock] := by
  cases i with
  | setMode m => cases m <;> simp
  | readCfg | writeCfg | readVer | resetModule | initBlock => simp
  | waitReady => simp [hostLines, waitReadyLines, Action.drivesLines] at h
  | _ => simp [hostLines] at h

theorem setModeLines_sends_nothing {p : Params} {m : Mode} {a : Action} (h : a ∈ setModeLines p m) :
    a.sends = false := by
  obtain rfl | rfl | rfl | rfl | rfl | rfl | rfl := setModeLines_mem h <;> rfl

theorem sends_mem_hostLines {p : Params} {i : Instr} (h : ∃ a ∈ hostLines p i, a.sends = true) :
    i ∈ [.readCfg, .writeCfg, .readVer, .resetModule, .initBlock] := by
  obtain ⟨a, ha, hsends⟩ := h
  cases i with
  | readCfg | writeCfg | readVer | resetModule | initBlock => simp
  | setMode m =>
    obtain hline | hok := List.mem_append.1 ha
    · rw [setModeLines_sends_nothing hline] at hsends; cases hsends
    · rw [List.mem_singleton.1 hok] at hsends; cases hsends
  | waitReady =>
    simp only [hostLines, waitReadyLines, List.cons_append, List.nil_append, List.mem_cons, List.not_mem_nil,
      or_false] at ha
    obtain rfl | rfl := ha <;> cases hsends
  | _ => cases ha

/-- With no operation in progress a code or a frame changes nothing (R240; log entry 9). -/
theorem exec_word_idle {i : Instr} {c : CfgFields} {s : State} (hidle : s.seq.todo = [])
    (hi : i ∈ [Instr.modeNormal, .modeWakeup, .modePowerSaving, .modeProgram, .wireReadParams, .wireReadVersion,
      .wireReset, .wireWritePersist c, .wireWriteVolatile c]) : exec i s = .next s := by
  obtain ⟨w, hw⟩ : ∃ w, exec i s = .next (s.perform w) := by
    simp only [List.mem_cons, List.not_mem_nil, or_false] at hi
    obtain rfl | rfl | rfl | rfl | rfl | rfl | rfl | rfl | rfl := hi <;> exact ⟨_, rfl⟩
  rw [hw, perform_outside fun a todo htodo => by simp [hidle] at htodo]

/-- Settles O56: `step_outward` names the lines that can have shown something, and `exec_word_idle` says that a code or
a frame has none of its own. -/
theorem linesAndFramesOnlyInsideOperations : Obligations.LinesAndFramesOnlyInsideOperations := by
  unfold Obligations.LinesAndFramesOnlyInsideOperations
  refine ⟨fun s t hstep => ?_, fun s c hidle i hi => exec_word_idle hidle hi⟩
  have written : ∀ {l}, OutwardBy l s t →
      (∃ e ∈ t.trace.drop s.trace.length, ∃ port bytes, e.prim = .serialWrite port bytes) →
        ∃ a ∈ l, a.sends = true := by
    rintro l ⟨-, ev, htrace, hev⟩ ⟨e, he, hwrite⟩
    rw [htrace, List.drop_left] at he
    exact hev e he (Prim.sends_iff.2 hwrite)
  obtain hout | ⟨i, p, ⟨hidle, c, rest, hinputs, hd⟩, hout⟩ := step_outward hstep
  · refine ⟨fun hlines => .inl (hout.lines hlines), fun hwrites => .inl ?_⟩
    obtain ⟨a, ha, hsends⟩ := written hout hwrites
    exact ⟨a, ha, Action.sends_iff.1 hsends⟩
  · exact ⟨fun hlines => .inr ⟨hidle, c, rest, i, hinputs, hd, drives_mem_hostLines (hout.lines hlines)⟩,
      fun hwrites => .inr ⟨hidle, c, rest, i, hinputs, hd, sends_mem_hostLines (written hout hwrites)⟩⟩

end Sys2Proof.Machine
end

section
/-! The least delay of an operation that ends with OK (O57): each of its waits, when it completes, has spent the settle
delay and the poll delay of each LOW sample, and no other line reads a LOW sample. -/

namespace Sys2Proof.Machine

open Sys2Proof

/-- From s to t at least `ms` milliseconds are spent in Delay, and 10 more for each LOW sample. -/
def Spends (ms : Nat) (s t : State) : Prop :=
  ∃ ev, t.trace = s.trace ++ ev ∧ ms + 10 * lowSamples ev ≤ minTime ev

theorem Spends.trans {ms ms' : Nat} {s t u : State} (hst : Spends ms s t) (htu : Spends ms' t u) :
    Spends (ms + ms') s u := by
  obtain ⟨ev, htrace, hev⟩ := hst
  obtain ⟨ev', htrace', hev'⟩ := htu
  refine ⟨ev ++ ev', by rw [htrace', htrace, List.append_assoc], ?_⟩
  rw [lowSamples_append, minTime_append]
  omega

theorem lowSamples_eq_zero {ev : List Event} (h : ∀ e ∈ ev, e.reply ≠ .level .low) : lowSamples ev = 0 := by
  induction ev with
  | nil => rfl
  | cons e es ih =>
    obtain ⟨he, hes⟩ := List.forall_mem_cons.1 h
    simp [lowSamples, he, ih hes]

/-- A wait that completes does so at a HIGH sample, after which the settle delay is spent; each sample before it costs
the poll delay (R104, R250). -/
theorem pollFrom_done_spends : ∀ {as : List Answer} {n waited : Nat} {s t : State},
    1 ≤ s.params.readySamples → pollFrom as n waited s = .done t → Spends 20 s t := by
  intro as
  induction as with
  | nil => intro n waited s t _ h; cases h
  | cons x rest ih =>
    intro n waited s t hsamples h
    rw [pollFrom_cons] at h
    split_ifs at h with hbad hcount hexpired
    · cases h
      have hhigh : x.level = .high := by
        cases hlevel : x.level with
        | high => rfl
        | low => rw [countAfter_low hlevel] at hcount; omega
      exact ⟨_, rfl, by simp [sampled, hhigh, delayed, lowSamples, minTime, Event.minMs]⟩
    · obtain ⟨ev, htrace, hev⟩ := ih (by exact hsamples) h
      refine ⟨[sampled s.params x, delayed 10] ++ ev, by rw [htrace, List.append_assoc], ?_⟩
      rw [lowSamples_append, minTime_append]
      have hlow : lowSamples [sampled s.params x, delayed 10] ≤ 1 := by
        cases hlevel : x.level <;> simp [lowSamples, sampled, delayed, hlevel]
      have htime : minTime [sampled s.params x, delayed 10] = 10 := rfl
      omega

/-- The delay that a line which completes has spent at least. -/
def Action.leastDelay : Action → Nat
  | .poll _ _ => 20
  | _ => 0

theorem runAction_done_spends {a : Action} {s t : State} (hsamples : 1 ≤ s.params.readySamples)
    (h : runAction a s = .done t) : Spends a.leastDelay s t := by
  obtain ⟨ev, htrace, hev⟩ := runAction_performs a s
  rw [h] at htrace
  cases a with
  | poll n waited => exact pollFrom_done_spends hsamples h
  | _ =>
    have hlow : lowSamples ev = 0 := lowSamples_eq_zero fun e he => (hev e he).level.resolve_left nofun
    exact ⟨ev, htrace, by simp [Action.leastDelay, hlow]⟩

/-- The delays of the lines of an operation. -/
def leastDelay (l : List Action) : Nat := (l.map Action.leastDelay).sum

theorem leastDelay_append (l l' : List Action) : leastDelay (l ++ l') = leastDelay l + leastDelay l' := by
  simp [leastDelay]

theorem runSeq_done_spends {l : List Action} {s t : State} (hsamples : 1 ≤ s.params.readySamples)
    (h : runSeq l s = .done t) : Spends (leastDelay l) s t := by
  induction l generalizing s with
  | nil => cases h; exact ⟨[], by simp, by simp [leastDelay, lowSamples]⟩
  | cons a l ih =>
    rw [runSeq_cons] at h
    cases hrun : runAction a s with
    | done u =>
      rw [hrun] at h
      have hparams : u.params = s.params := by simpa [hrun] using runAction_params a s
      exact (runAction_done_spends hsamples hrun).trans (ih (hparams ▸ hsamples) h)
    | awaits todo u => rw [hrun] at h; cases h
    | raised e u => rw [hrun] at h; cases h

/-- A SET_MODE waits once (R101). -/
theorem leastDelay_setModeLines (p : Params) (m : Mode) : leastDelay (setModeLines p m) = 20 := by
  unfold setModeLines writeModeLines
  split <;> rfl

/-- The rows of R250's table are the sums of the waits of their operations. -/
theorem leastDelay_hostLines (p : Params) :
    leastDelay (hostLines p .waitReady) = 20 ∧ (∀ m, leastDelay (hostLines p (.setMode m)) = 20) ∧
      leastDelay (hostLines p .readCfg) = 40 ∧ leastDelay (hostLines p .readVer) = 40 ∧
      leastDelay (hostLines p .writeCfg) = 40 ∧ leastDelay (hostLines p .resetModule) = 60 ∧
      leastDelay (hostLines p .initBlock) = 100 := by
  simp only [hostLines, waitReadyLines, readCfgLines, readVerLines, writeCfgLines, resetModuleLines, initLines,
    leastDelay_append, leastDelay_setModeLines]
  exact ⟨rfl, fun _ => rfl, rfl, rfl, rfl, rfl, rfl⟩

/-- Settles O57: an operation that has ended with OK ran to its end (`runOp_idle_ok`), through all its waits
(`runSeq_done_spends`). -/
theorem minimumDelays : Obligations.MinimumDelays := by
  unfold Obligations.MinimumDelays
  rintro ⟨i, ms⟩ hx s t hsamples hexec hidle hresult
  have hrow : leastDelay (hostLines s.params i) = ms ∧ hostLines s.params i ≠ [] := by
    simp only [List.mem_cons, List.not_mem_nil, or_false, Prod.mk.injEq] at hx
    obtain h | h | h | h | h | h | h | h | h | h := hx <;> obtain ⟨rfl, rfl⟩ := h <;>
      exact ⟨by simp [leastDelay_hostLines], by simp [hostLines]⟩
  obtain ⟨rfl, hhost⟩ := hrow
  obtain ⟨wrap, hrun⟩ := exec_hostLines hhost hexec
  obtain ⟨u, hdone, rfl⟩ := runOp_idle_ok hrun.symm hidle hresult
  obtain ⟨ev, htrace, hev⟩ := runSeq_done_spends (s := s.idle) hsamples hdone
  exact ⟨ev, htrace, hev⟩

end Sys2Proof.Machine
end

section
/-! A step that runs no new word (O7): the block waits, loads an operand, or goes on with the operation in progress. -/

namespace Sys2Proof.Machine

open Sys2Proof

theorem fetch_waiting {s : State} (h : s.seq.todo = []) (hi : s.inputs = []) : s.fetch = .waiting := by
  simp only [State.fetch, awaited_idle h, h, hi]

theorem fetch_loadFrameIn {s : State} {f : Frame6} {rest : List HostMove} (h : s.seq.todo = [])
    (hi : s.inputs = .loadFrameIn f :: rest) : s.fetch = .loaded { s with inputs := rest, frameIn := f } := by
  simp only [State.fetch, awaited_idle h, h, hi]

theorem fetch_loadCfgIn {s : State} {c : ConfigurationRegister} {rest : List HostMove} (h : s.seq.todo = [])
    (hi : s.inputs = .loadCfgIn c :: rest) : s.fetch = .loaded { s with inputs := rest, cfgIn := c } := by
  simp only [State.fetch, awaited_idle h, h, hi]

/-- Settles O7: what `fetch` finds in each case; an operation that goes on does so with the answers of `State.supply`,
or with the bytes that `State.deliver` gives its SerialRead. -/
theorem stepWaitsLoadsAndGoesOn : Obligations.StepWaitsLoadsAndGoesOn := by
  unfold Obligations.StepWaitsLoadsAndGoesOn
  refine ⟨fun s hidle hnone => ?waits, fun s f rest hidle hload => ?loadsFrameIn,
    fun s c rest hidle hload => ?loadsCfgIn, fun s hbusy hgoesOn hlisted => ?listed,
    fun s hbusy hgoesOn hunlisted => ?drawn, fun s f todo rest hreads harrives => ?reads, fun s w hawaits => ?noCommand⟩
  case waits => rw [step, fetch_waiting hidle hnone]
  case loadsFrameIn => rw [step, fetch_loadFrameIn hidle hload]
  case loadsCfgIn => rw [step, fetch_loadCfgIn hidle hload]
  case listed => rw [step_running hbusy hgoesOn, State.resume, supply_listed hlisted]
  case drawn => rw [step_running hbusy hgoesOn, State.resume, supply_drawn hunlisted]
  case reads =>
    rw [step_reading hreads harrives, deliver_reading (s := { s with inputs := rest }) hreads]
    rfl
  case noCommand =>
    rintro c rfl
    obtain ⟨a, todo, _, _, _, hstands⟩ := awaited_some hawaits
    rw [standsAt_cmd] at hstands
    cases hstands

end Sys2Proof.Machine
end
